-- ==== Sys2Proof/Word.lean ====
section
/-! DEFINITION. The value types of the datapath: bytes, words, 16-byte blocks, keys and expanded keys
(spec/00_scope.md R6, R10, R11; spec/10_state.md R31 to R35). -/

namespace Sys2Proof

/-- A byte: 8 bits, bit 0 the least significant (R10). -/
abbrev Byte := BitVec 8

/-- A word: 32 bits (R10). -/
abbrev Word := BitVec 32

/-- Sixteen bytes, byte 0 first (R11): a cipher block, an IV, the AES state, a round key. -/
abbrev Block := Vector Byte 16

/-- The 32 bytes of an AES-256 key (R15). -/
abbrev Key := Vector Byte 32

/-- The expanded key: 60 words of 32 bits, `W[0]` to `W[59]` (R6, R35). -/
abbrev Schedule := Vector Word 60

/-- Sixteen bytes of zero. -/
def zeroBlock : Block := Vector.replicate 16 0#8

/-- Sixty words of zero. -/
def zeroSchedule : Schedule := Vector.replicate 60 0#32

end Sys2Proof
end

