-- ==== Sys2Proof/Machine/Gf.lean ====
section
/-! DEFINITION. Arithmetic in GF(2^8), the S-box and its inverse, the round constants and the word operations
(spec/40_gf256_and_tables.md R74 to R84). The algebraic definitions are the rule; the tables of R81 and R82 are checked
against them in Sys2Proof/Laws/Gf.lean. -/

namespace Sys2Proof.Machine

/-- `xtime`: multiplication by `x` (R76). -/
def xtime (b : Byte) : Byte := if b.getLsbD 7 then (b <<< 1) ^^^ 0x1B#8 else b <<< 1

/-- `xtime^i(a)` (R77). -/
def xtimePow (a : Byte) : Nat → Byte
  | 0 => a
  | i + 1 => xtime (xtimePow a i)

/-- The XOR over the bits `i < n` of `b` that are 1 of `xtime^i(a)` (R77). -/
def gfMulBits (a b : Byte) : Nat → Byte
  | 0 => 0x00#8
  | n + 1 => gfMulBits a b n ^^^ (if b.getLsbD n then xtimePow a n else 0x00#8)

/-- Multiplication in the field (R77). -/
def gfMul (a b : Byte) : Byte := gfMulBits a b 8

/-- The multiplicative inverse in its closed form `a^254`, which gives 0x00 for 0x00 (R79):
`254 = 2 + 4 + 8 + 16 + 32 + 64 + 128`. -/
def gfInv (a : Byte) : Byte :=
  let a2 := gfMul a a
  let a4 := gfMul a2 a2
  let a8 := gfMul a4 a4
  let a16 := gfMul a8 a8
  let a32 := gfMul a16 a16
  let a64 := gfMul a32 a32
  let a128 := gfMul a64 a64
  gfMul a2 (gfMul a4 (gfMul a8 (gfMul a16 (gfMul a32 (gfMul a64 a128)))))

/-- The affine step of the S-box: `y xor rotl8(y,1) xor ... xor rotl8(y,4) xor 0x63` (R80). -/
def sboxAffine (y : Byte) : Byte :=
  y ^^^ y.rotateLeft 1 ^^^ y.rotateLeft 2 ^^^ y.rotateLeft 3 ^^^ y.rotateLeft 4 ^^^ 0x63#8

/-- `SBOX` (R80). -/
def sbox (a : Byte) : Byte := sboxAffine (gfInv a)

/-- The affine step of the inverse S-box: `rotl8(a,1) xor rotl8(a,3) xor rotl8(a,6) xor 0x05` (R82). -/
def invSboxAffine (a : Byte) : Byte := a.rotateLeft 1 ^^^ a.rotateLeft 3 ^^^ a.rotateLeft 6 ^^^ 0x05#8

/-- `INVSBOX` (R82). -/
def invSbox (a : Byte) : Byte := gfInv (invSboxAffine a)

/-- `RCON(j)`: `x^(j-1)` in the field (R83). -/
def rcon (j : Nat) : Byte := xtimePow 0x01#8 (j - 1)

/-- Byte `k` of a word, byte 0 the most significant (spec/20_memory.md R46). -/
def wordByte (w : Word) (k : Nat) : Byte := w.extractLsb' (24 - 8 * k) 8

/-- The word `b0 || b1 || b2 || b3`, `b0` most significant (R46). -/
def wordOf (b0 b1 b2 b3 : Byte) : Word := b0 ++ b1 ++ b2 ++ b3

/-- `SubWord` (R84). -/
def subWord (w : Word) : Word :=
  wordOf (sbox (wordByte w 0)) (sbox (wordByte w 1)) (sbox (wordByte w 2)) (sbox (wordByte w 3))

/-- `RotWord` (R84). -/
def rotWord (w : Word) : Word := wordOf (wordByte w 1) (wordByte w 2) (wordByte w 3) (wordByte w 0)

/-- The round constant as a word: `RCON(j) * 2^24` (R83). -/
def rconWord (j : Nat) : Word := wordOf (rcon j) 0x00#8 0x00#8 0x00#8

end Sys2Proof.Machine
end

