-- ==== Sys2Proof/Machine/Aes.lean ====
section
/-! DEFINITION. AES-256: the key expansion (spec/41_key_expansion.md R87, R89), the four round primitives
(spec/42_block_decrypt.md R95 to R98) and the inverse cipher (R99). -/

namespace Sys2Proof.Machine

/-- The bytewise XOR of two blocks: `xor16` (spec/00_scope.md R11). -/
def xorBlock (a b : Block) : Block := Vector.ofFn fun j => a[j] ^^^ b[j]

/-! ### Key expansion -/

/-- Key word `i` (`i < 8`): `key[4i] || key[4i+1] || key[4i+2] || key[4i+3]` (R46). -/
def keyWord (key : Key) (i : Nat) : Word :=
  wordOf key[4 * i]! key[4 * i + 1]! key[4 * i + 2]! key[4 * i + 3]!

/-- The key copied into the first eight words; the others unchanged (R87, R90). -/
def copyKey (key : Key) (w : Schedule) : Schedule :=
  Vector.ofFn fun i => if i.val < 8 then keyWord key i.val else w[i]

/-- What R87 makes of the previous word before it is XORed onto `W[i-8]`. -/
def expandTemp (i : Nat) (t : Word) : Word :=
  if i % 8 = 0 then subWord (rotWord t) ^^^ rconWord (i / 8)
  else if i % 8 = 4 then subWord t
  else t

/-- The body of R87 for word `i` (`8 ≤ i ≤ 59`). -/
def expandWord (w : Schedule) (i : Nat) : Word := w[i - 8]! ^^^ expandTemp i w[i - 1]!

/-- The words `i`, `i + 1`, ... computed in turn, `n` of them. -/
def expandFrom : Nat → Nat → Schedule → Schedule
  | 0, _, w => w
  | n + 1, i, w => expandFrom n (i + 1) (w.set! i (expandWord w i))

/-- `KeyExpansion(key)` (R87). -/
def keyExpansion (key : Key) : Schedule := expandFrom 52 8 (copyKey key zeroSchedule)

/-- Round key `r` as sixteen bytes: `RK[r][4c + k]` is byte `k` of `W[4r + c]` (R47, R89). -/
def roundKey (w : Schedule) (r : Nat) : Block :=
  Vector.ofFn fun j => wordByte w[4 * r + j.val / 4]! (j.val % 4)

/-! ### The four primitives -/

/-- `ADDRK(s, k)` (R95). -/
def addRoundKey (s k : Block) : Block := xorBlock s k

/-- Where `INVSHIFTROWS` takes byte `j` of its result from: row `r = j mod 4` is rotated right by `r`, so column `c` comes
from column `c - r` (R96). -/
def invShiftSource (j : Nat) : Nat := j % 4 + 4 * ((j / 4 + 4 - j % 4) % 4)

/-- `INVSHIFTROWS(s)` (R96). -/
def invShiftRows (s : Block) : Block := Vector.ofFn fun j => s[invShiftSource j.val]!

/-- `INVSUBBYTES(s)` (R97). -/
def invSubBytes (s : Block) : Block := Vector.ofFn fun j => invSbox s[j]

/-- Row `r` of a column multiplied by the matrix of R98. -/
def invMixRow (a0 a1 a2 a3 : Byte) (r : Nat) : Byte :=
  match r with
  | 0 => gfMul 0x0E#8 a0 ^^^ gfMul 0x0B#8 a1 ^^^ gfMul 0x0D#8 a2 ^^^ gfMul 0x09#8 a3
  | 1 => gfMul 0x09#8 a0 ^^^ gfMul 0x0E#8 a1 ^^^ gfMul 0x0B#8 a2 ^^^ gfMul 0x0D#8 a3
  | 2 => gfMul 0x0D#8 a0 ^^^ gfMul 0x09#8 a1 ^^^ gfMul 0x0E#8 a2 ^^^ gfMul 0x0B#8 a3
  | _ => gfMul 0x0B#8 a0 ^^^ gfMul 0x0D#8 a1 ^^^ gfMul 0x09#8 a2 ^^^ gfMul 0x0E#8 a3

/-- `INVMIXCOLS(s)` (R98). -/
def invMixCols (s : Block) : Block :=
  Vector.ofFn fun j =>
    invMixRow s[4 * (j.val / 4)]! s[4 * (j.val / 4) + 1]! s[4 * (j.val / 4) + 2]! s[4 * (j.val / 4) + 3]! (j.val % 4)

/-! ### The inverse cipher -/

/-- A full round with round key `r` (R99, R100). -/
def invRound (w : Schedule) (r : Nat) (s : Block) : Block :=
  invMixCols (addRoundKey (invSubBytes (invShiftRows s)) (roundKey w r))

/-- The full rounds `r`, `r - 1`, ..., 1. -/
def invRounds (w : Schedule) : Nat → Block → Block
  | 0, s => s
  | r + 1, s => invRounds w r (invRound w (r + 1) s)

/-- The final round, without `INVMIXCOLS` (R99, R100). -/
def invFinalRound (w : Schedule) (s : Block) : Block :=
  addRoundKey (invSubBytes (invShiftRows s)) (roundKey w 0)

/-- `InvCipher(c, W)` (R99). -/
def invCipher (c : Block) (w : Schedule) : Block :=
  invFinalRound w (invRounds w 13 (addRoundKey c (roundKey w 14)))

end Sys2Proof.Machine
end

