-- ==== Sys2Proof/Config.lean ====
section
/-! DEFINITION. What an instance of the hardware fixes (the open parameters of spec/00_scope.md R7) and the one value the
spec leaves free. -/

namespace Sys2Proof

/-- The length a key must have, in bytes (R5). -/
def Config.keyBytes : Nat := 32

/-- The length an IV must have, in bytes (R5). -/
def Config.ivBytes : Nat := 16

/-- The size of a cipher block, in bytes (R5). -/
def Config.blockBytes : Nat := 16

/-- The open parameters an instance of the core is built with (R7). They are held in the state as fixed data, so that
every statement about all states is a statement about every instance. -/
structure Config.Params where
  /-- `LEN_W`, the width in bits of `KLEN`, `IVLEN`, `CTLEN` and `PTLEN`. -/
  lenW : Nat
  /-- `CT_MAX`, the capacity in bytes of `CTBUF` and of `DEC`. -/
  ctMax : Nat
  deriving DecidableEq, Repr

/-- What R7 says of the parameters: `CT_MAX` is a multiple of 16, at least 16 and less than `2^LEN_W`. -/
abbrev Config.Params.wf (p : Config.Params) : Prop :=
  16 ≤ p.ctMax ∧ p.ctMax % 16 = 0 ∧ p.ctMax < 2 ^ p.lenW

/-- The instance `State.reset` names: `LEN_W = 32` is the spec's default (R7); `CT_MAX = 65536` is a DESIGN CHOICE
(log entry 1): the spec leaves it OPEN. -/
def Config.Params.default : Config.Params := { lenW := 32, ctMax := 65536 }

/-- FREE VALUE: what a byte of `CTBUF` holds that nothing has written: "an arbitrary fixed byte"
(spec/70_reset_and_hazards.md R169, spec/93_implementation_defined.md U5). No body: nothing can be proved of its value
(log entry 2). -/
opaque Config.unwrittenCt : Nat → Byte

end Sys2Proof
end

