-- ==== Sys2Proof/Syntax.lean ====
section
/-! DEFINITION. The operations of the hardware: one constructor of `Instr` for each row of spec/opcode_table.json, the
phases of the sequencer, the error kinds, and the two forms in which an operation is selected
(spec/30_encoding.md R58, R61, R63, R64, R72). -/

namespace Sys2Proof

/-- The five error kinds of D0's `DecryptError` (spec/00_scope.md R13, spec/60_exceptions.md R142). -/
inductive ErrorKind where
  | invalidKeyLength
  | invalidIvLength
  | invalidCiphertextLength
  | invalidPadding
  | cipherEngineFailure
  deriving DecidableEq, Repr

/-- The result of a request: `Ok(pt)` or `Err(kind)`; an error carries its kind and nothing else (R13). -/
inductive DecryptResult where
  | ok (pt : List Byte)
  | err (kind : ErrorKind)
  deriving DecidableEq, Repr

/-- The fourteen values `PHASE` can hold (R36, R64); the codes 14 and 15 are no value of it (R68). -/
inductive Phase where
  | idle
  | validate
  | kexp
  | loadblk
  | invcipher
  | cbcxor
  | padread
  | padrange
  | padlen
  | padfull
  | trunc
  | fail
  | wipe
  | done
  deriving DecidableEq, Repr

/-- The operations, one constructor per row of spec/opcode_table.json (R72). The two host commands and the fourteen
phases have no operands. The round primitives (format `PRIM`) and the functions (format `FUNC`) are pure functions with
no encoding of their own: their constructors carry the operands the rules give them. -/
inductive Instr where
  /-- `START`, a host command (R127). -/
  | start
  /-- `CLEAR`, a host command (R137). -/
  | clear
  /-- `IDLE`, a resting phase (R126). -/
  | idle
  /-- `VALIDATE` (R128). -/
  | validate
  /-- `KEXP` (R86, R90). -/
  | kexp
  /-- `LOADBLK` (R106). -/
  | loadblk
  /-- `INVCIPHER` (R99, R100). -/
  | invcipher
  /-- `CBCXOR` (R107). -/
  | cbcxor
  /-- `PADREAD` (R115). -/
  | padread
  /-- `PADRANGE` (R116). -/
  | padrange
  /-- `PADLEN` (R117). -/
  | padlen
  /-- `PADFULL` (R118). -/
  | padfull
  /-- `TRUNC` (R119). -/
  | trunc
  /-- `FAIL` (R134). -/
  | fail
  /-- `WIPE` (R135). -/
  | wipe
  /-- `DONE`, a resting phase (R136). -/
  | done
  /-- `ADDRK(s, k)` (R95). -/
  | addrk (s k : Block)
  /-- `INVSHIFTROWS(s)` (R96). -/
  | invshiftrows (s : Block)
  /-- `INVSUBBYTES(s)` (R97). -/
  | invsubbytes (s : Block)
  /-- `INVMIXCOLS(s)` (R98). -/
  | invmixcols (s : Block)
  /-- `KeyExpansion(key)` (R87). -/
  | keyExpansionFn (key : Key)
  /-- `InvCipher(c, W)` (R99). -/
  | invCipherFn (c : Block) (w : Schedule)
  /-- `CbcDecrypt(W, iv, ct)` (R105). -/
  | cbcDecryptFn (w : Schedule) (iv : Block) (ct : List Byte)
  /-- `Unpad(dec)` (R120). -/
  | unpadFn (dec : List Byte)
  /-- `Decrypt(key, iv, ct, fault)` (R124). -/
  | decryptFn (key iv ct : List Byte) (fault : Bool)
  deriving DecidableEq, Repr

/-- The two encoded forms that select an operation (R58 (c) and (d)): the byte written to `CTRL`, and the 4-bit code in
`PHASE`. -/
inductive Selector where
  | ctrl (value : BitVec 8)
  | phase (code : BitVec 4)
  deriving DecidableEq, Repr

end Sys2Proof
end

