-- ==== Sys2Proof/WellFormed.lean ====
section
/-! DEFINITION. Which operations are inside the domains the spec gives them. -/

namespace Sys2Proof

/-- A ciphertext shape `CbcDecrypt` is defined on: `len(ct) = 16 n` (spec/43_cbc_chaining.md R105). -/
def wholeBlocks (ct : List Byte) : Bool := ct.length % 16 == 0

/-- `n >= 1` (R105). -/
def atLeastOneBlock (ct : List Byte) : Bool := 16 ≤ ct.length

/-- An operation is well-formed when its operands lie in the domain its rule states: `CbcDecrypt` takes whole blocks, at
least one (R105); `Unpad` takes at least 16 bytes (spec/44_pkcs7_validator.md R120). Every other operand has its length in
its type, or is unrestricted (`Decrypt` takes sequences of any lengths, R124). -/
def Instr.wf : Instr → Bool
  | .start => true
  | .clear => true
  | .idle => true
  | .validate => true
  | .kexp => true
  | .loadblk => true
  | .invcipher => true
  | .cbcxor => true
  | .padread => true
  | .padrange => true
  | .padlen => true
  | .padfull => true
  | .trunc => true
  | .fail => true
  | .wipe => true
  | .done => true
  | .addrk _ _ => true
  | .invshiftrows _ => true
  | .invsubbytes _ => true
  | .invmixcols _ => true
  | .keyExpansionFn _ => true
  | .invCipherFn _ _ => true
  | .cbcDecryptFn _ _ ct => wholeBlocks ct && atLeastOneBlock ct
  | .unpadFn dec => atLeastOneBlock dec
  | .decryptFn _ _ _ _ => true

end Sys2Proof
end

