-- ==== Sys2Proof/Decode.lean ====
section
/-! DEFINITION. The decoder of the two selectors and, after it, the encoder (spec/30_encoding.md R61, R64, R67, R68). -/

namespace Sys2Proof

/-- Why a selector selects no operation. -/
inductive DecodeError where
  /-- `CTRL` value `0x00`: "none", no effect (R61). -/
  | noCommand
  /-- `CTRL` values `0x03` to `0xFF`: reserved (R67). -/
  | reservedCtrl
  /-- Phase codes 14 and 15: reserved (R68). -/
  | reservedPhase
  deriving DecidableEq, Repr

/-- The phase a 4-bit code names (R64); 14 and 15 name none (R68). -/
def Phase.ofCode (c : BitVec 4) : Option Phase :=
  match c.toNat with
  | 0 => some .idle
  | 1 => some .validate
  | 2 => some .kexp
  | 3 => some .loadblk
  | 4 => some .invcipher
  | 5 => some .cbcxor
  | 6 => some .padread
  | 7 => some .padrange
  | 8 => some .padlen
  | 9 => some .padfull
  | 10 => some .trunc
  | 11 => some .fail
  | 12 => some .wipe
  | 13 => some .done
  | _ => none

/-- The operation the sequencer performs in a phase (R64). -/
def Phase.instr : Phase → Instr
  | .idle => .idle
  | .validate => .validate
  | .kexp => .kexp
  | .loadblk => .loadblk
  | .invcipher => .invcipher
  | .cbcxor => .cbcxor
  | .padread => .padread
  | .padrange => .padrange
  | .padlen => .padlen
  | .padfull => .padfull
  | .trunc => .trunc
  | .fail => .fail
  | .wipe => .wipe
  | .done => .done

/-- Decoding of the byte written to `CTRL`: the decoder compares the whole byte (R61). -/
def decodeCtrl (v : BitVec 8) : Except DecodeError Instr :=
  if v = 0x01#8 then .ok .start
  else if v = 0x02#8 then .ok .clear
  else if v = 0x00#8 then .error .noCommand
  else .error .reservedCtrl

/-- Decoding of the code in `PHASE` (R64). -/
def decodePhase (c : BitVec 4) : Except DecodeError Instr :=
  match Phase.ofCode c with
  | some p => .ok p.instr
  | none => .error .reservedPhase

/-- The decoder: total on every selector, rejecting by name. -/
def decode : Selector → Except DecodeError Instr
  | .ctrl v => decodeCtrl v
  | .phase c => decodePhase c

/-- The 4-bit code of a phase (R64). -/
def Phase.code : Phase → BitVec 4
  | .idle => 0b0000#4
  | .validate => 0b0001#4
  | .kexp => 0b0010#4
  | .loadblk => 0b0011#4
  | .invcipher => 0b0100#4
  | .cbcxor => 0b0101#4
  | .padread => 0b0110#4
  | .padrange => 0b0111#4
  | .padlen => 0b1000#4
  | .padfull => 0b1001#4
  | .trunc => 0b1010#4
  | .fail => 0b1011#4
  | .wipe => 0b1100#4
  | .done => 0b1101#4

/-- The encoder: the selector of an operation. The round primitives and the pure functions have none: "nothing selects them
but the enclosing micro-operation" (R72). -/
def encode : Instr → Option Selector
  | .start => some (.ctrl 0x01#8)
  | .clear => some (.ctrl 0x02#8)
  | .idle => some (.phase (Phase.code .idle))
  | .validate => some (.phase (Phase.code .validate))
  | .kexp => some (.phase (Phase.code .kexp))
  | .loadblk => some (.phase (Phase.code .loadblk))
  | .invcipher => some (.phase (Phase.code .invcipher))
  | .cbcxor => some (.phase (Phase.code .cbcxor))
  | .padread => some (.phase (Phase.code .padread))
  | .padrange => some (.phase (Phase.code .padrange))
  | .padlen => some (.phase (Phase.code .padlen))
  | .padfull => some (.phase (Phase.code .padfull))
  | .trunc => some (.phase (Phase.code .trunc))
  | .fail => some (.phase (Phase.code .fail))
  | .wipe => some (.phase (Phase.code .wipe))
  | .done => some (.phase (Phase.code .done))
  | .addrk _ _ => none
  | .invshiftrows _ => none
  | .invsubbytes _ => none
  | .invmixcols _ => none
  | .keyExpansionFn _ => none
  | .invCipherFn _ _ => none
  | .cbcDecryptFn _ _ _ => none
  | .unpadFn _ => none
  | .decryptFn _ _ _ _ => none

/-- The selector that a table row of `nbits` bits with the bits `w` denotes: a row of 8 bits is a byte written to `CTRL`, a
row of 4 bits a code of `PHASE` (R72; log entry 3). -/
def tableSelector (nbits w : Nat) : Option Selector :=
  if nbits = 8 then (if w < 256 then some (.ctrl (BitVec.ofNat 8 w)) else none)
  else if nbits = 4 then (if w < 16 then some (.phase (BitVec.ofNat 4 w)) else none)
  else none

/-- The operation the decoder reads from a row of the operation table. -/
def decodeTableWord (nbits w : Nat) : Option Instr :=
  match tableSelector nbits w with
  | none => none
  | some e =>
    match decode e with
    | .ok i => some i
    | .error _ => none

end Sys2Proof
end

