-- ==== Sys2Proof/Machine/State.lean ====
section
/-! DEFINITION. The state of the core: everything spec/10_state.md gives the machine, and, marked as the model's own, the
actions the other agents have queued and the two values the machine has handed out last. -/

namespace Sys2Proof.Machine

/-- What `STATUS` and `ERRK` hold: `OK` (no error pending), or one of the five kinds (spec/30_encoding.md R63). The codes 6
and 7 are no value of it (R63, R68). -/
inductive Code where
  | ok
  | err (kind : ErrorKind)
  deriving DecidableEq, Repr

/-- The four buffers that hold bytes (spec/20_memory.md R40). The fifth, `PT`, is a view of `DEC`. -/
inductive Buf where
  | keybuf
  | ivbuf
  | ctbuf
  | dec
  deriving DecidableEq, Repr

/-- The four windows of the host port (spec/10_state.md R21). -/
inductive Window where
  | keybuf
  | ivbuf
  | ctbuf
  | pt
  deriving DecidableEq, Repr

/-- What the agents other than the sequencer do, and the sequencer's turn among it (spec/00_scope.md R8). A list of these in
the state says in which order the agents act. -/
inductive Event where
  /-- The sequencer takes its next step (R8 (1), R139). -/
  | tick
  /-- The `RESET` input is pulsed (R8 (3), R161). -/
  | reset
  /-- The environment drives the `ENGINE_FAULT` input to a level (R8 (4), R138). -/
  | engineFault (level : Bool)
  /-- The host writes a register, by its number (R8 (2), R21). -/
  | writeReg (number value : Nat)
  /-- The host reads a register, by its number (R21). -/
  | readReg (number : Nat)
  /-- The host writes one byte of a window (R40, R49). -/
  | writeByte (window : Window) (offset : Nat) (value : Byte)
  /-- The host reads one byte of a window (R40, R49). -/
  | readByte (window : Window) (offset : Nat)
  deriving DecidableEq, Repr

/-- What a host read answers: a register's value, or a byte of a window. -/
inductive ReadData where
  | reg (value : Nat)
  | byte (value : Byte)
  deriving DecidableEq, Repr

/-- The value a pure operation of the table (format `PRIM` or `FUNC`, R72) returns. -/
inductive PureValue where
  | block (b : Block)
  | schedule (w : Schedule)
  | bytes (bs : List Byte)
  | result (r : DecryptResult)
  deriving DecidableEq, Repr

/-- The bytes of one buffer: pairs of an offset and a byte, offsets strictly rising, no byte equal to what an unlisted offset
reads as (`Memory.wf` says so). -/
abbrev Memory := List Host.Cell

/-- The whole state. -/
structure State where
  /-- `KLEN`, the length of the offered key (R24). -/
  klen : Nat
  /-- `IVLEN`, the length of the offered IV (R24). -/
  ivlen : Nat
  /-- `CTLEN`, the length of the ciphertext (R24). -/
  ctlen : Nat
  /-- `PTLEN`, the length of the plaintext (R25). -/
  ptlen : Nat
  /-- `STAT.STATUS`, the result code (R23, R37). `BUSY` and `DONE` are views of `phase` (R23). -/
  status : Code
  /-- `KEYBUF`, 32 bytes (R26). -/
  keybuf : Memory
  /-- `IVBUF`, 16 bytes (R27). -/
  ivbuf : Memory
  /-- `CTBUF`, `CT_MAX` bytes (R28). -/
  ctbuf : Memory
  /-- `DEC`, `CT_MAX` bytes (R29). -/
  dec : Memory
  /-- `S`, the AES state (R31). -/
  sreg : Block
  /-- `PREV`, the chaining register (R32). -/
  prev : Block
  /-- `CUR`, the ciphertext block in work (R33). -/
  cur : Block
  /-- `P`, the claimed padding length (R34). -/
  p : Byte
  /-- `W`, the expanded key (R35). -/
  w : Schedule
  /-- `PHASE` (R36). -/
  phase : Phase
  /-- `BLK`, the index of the block in work (R36). -/
  blk : Nat
  /-- `RND`, the round key index of the next round step (R36). -/
  rnd : BitVec 4
  /-- `KI`, the index of the next word of the key expansion (R36). -/
  ki : BitVec 6
  /-- `ERRK`, the error kind latched by a `raise` (R36, R37). -/
  errk : Code
  /-- The level of the `ENGINE_FAULT` input (R138). -/
  engineFault : Bool
  /-- The parameters of the instance (R7); nothing changes them. -/
  params : Config.Params
  /-- THE MODEL'S OWN: what the agents do next, the first first; where it is empty the sequencer has the turn. -/
  inputs : List Event
  /-- THE MODEL'S OWN: what the last host read answered. -/
  readData : Option ReadData
  /-- THE MODEL'S OWN: what the last pure operation returned. -/
  pureValue : Option PureValue
  deriving DecidableEq, Repr

/-- Why the machine stops with a fault. -/
inductive Fault where
  /-- Raised by `LOADBLK`, `CBCXOR`, `PADREAD` and `PADFULL` when an offset they compute lies outside the buffer, which the
  spec says never happens (spec/20_memory.md R43): only a state no run reaches gives it. SAFE: the machine stops. -/
  | bufferBound
  deriving DecidableEq, Repr

/-- Why the model refuses. -/
inductive Refusal where
  /-- Raised by `exec` for an instruction with no meaning yet, by its mnemonic. SAFE: the machine stops. -/
  | notModelled (mnemonic : String)
  /-- Raised by a host access to a register number of 6 or more: "a model refuses it" (spec/30_encoding.md R69). SAFE. -/
  | unassignedRegister
  /-- Raised by a host access to an offset outside a window: "a model refuses it" (spec/20_memory.md R41). SAFE. -/
  | outsideWindow
  /-- Raised by a host write of a value that does not fit the register: a length "cannot be written"
  (spec/70_reset_and_hazards.md R170); that it is refused, and a `CTRL` value of 256 or more with it, is a DESIGN CHOICE (log
  entry 9). SAFE. -/
  | valueTooWide
  /-- Raised by `CbcDecrypt` and `Unpad` on operands outside the domain their rules state (R105, R120). SAFE. -/
  | outsideDomain
  /-- Raised by `KEXP`, `INVCIPHER` and `TRUNC` when an internal register holds a value it cannot reach: "refuse; outside the
  spec" (spec/93_implementation_defined.md U11). SAFE. -/
  | unreachableState
  /-- Raised by the sequencer for a phase code the decoder rejects (spec/30_encoding.md R68); no value of `phase` has one.
  SAFE. -/
  | reservedPhase
  deriving DecidableEq, Repr

/-- The three outcomes of a step of this machine. -/
abbrev StepResult := Host.Outcome State Fault Refusal

/-- The machine right after `RESET` at power-up (spec/10_state.md R39). `CTBUF` and `DEC` are not cleared by reset: nothing has
been written to them (log entries 2 and 4). `ENGINE_FAULT` is an input: its level here is a DESIGN CHOICE (log entry 5), as is
`CT_MAX` (log entry 1). -/
def State.reset : State where
  klen := 0
  ivlen := 0
  ctlen := 0
  ptlen := 0
  status := .ok
  keybuf := []
  ivbuf := []
  ctbuf := []
  dec := []
  sreg := zeroBlock
  prev := zeroBlock
  cur := zeroBlock
  p := 0x00#8
  w := zeroSchedule
  phase := .idle
  blk := 0
  rnd := 0#4
  ki := 0#6
  errk := .ok
  engineFault := false
  params := Config.Params.default
  inputs := []
  readData := none
  pureValue := none

end Sys2Proof.Machine
end

