-- ==== Sys2Proof/Machine/Ops.lean ====
section
/-! DEFINITION. The named operations over the buffers and registers, the one way an error is raised and the one way a response
is released (spec/20_memory.md, spec/45_decrypt_operation.md R134, R135, R137, R138, spec/60_exceptions.md R153, R154). -/

namespace Sys2Proof.Machine

/-! ### Buffers -/

/-- What an unlisted offset of a buffer reads as. `KEYBUF` and `IVBUF` read 0x00, their reset value (R26, R27), and `DEC`
reads 0x00 ("a model may hold zeros", spec/93_implementation_defined.md U6; log entry 4). A byte of `CTBUF` that nothing has
written has no value here; `cellByte` gives it the free value of R169. -/
def Buf.unlisted : Buf → Option Byte
  | .keybuf => some 0x00#8
  | .ivbuf => some 0x00#8
  | .ctbuf => none
  | .dec => some 0x00#8

/-- The size of a buffer in bytes (R40). -/
def Buf.size (b : Buf) (p : Config.Params) : Nat :=
  match b with
  | .keybuf => Config.keyBytes
  | .ivbuf => Config.ivBytes
  | .ctbuf => p.ctMax
  | .dec => p.ctMax

/-- The contents of a buffer. -/
def State.buf (s : State) (b : Buf) : Memory :=
  match b with
  | .keybuf => s.keybuf
  | .ivbuf => s.ivbuf
  | .ctbuf => s.ctbuf
  | .dec => s.dec

/-- The state with the contents of a buffer replaced. -/
def State.setBuf (s : State) (b : Buf) (m : Memory) : State :=
  match b with
  | .keybuf => { s with keybuf := m }
  | .ivbuf => { s with ivbuf := m }
  | .ctbuf => { s with ctbuf := m }
  | .dec => { s with dec := m }

/-- The canonical form of a buffer's contents: offsets strictly rising, and no byte equal to what an unlisted offset reads
as. -/
abbrev Memory.wf (b : Buf) (m : Memory) : Prop :=
  m.Pairwise (fun x y => x.1 < y.1) ∧ ∀ c ∈ m, b.unlisted ≠ some c.2

/-- Every listed offset lies below the buffer's size. -/
abbrev Memory.within (n : Nat) (m : Memory) : Prop := ∀ c ∈ m, c.1 < n

/-- The byte listed at an offset. -/
def memLookup : Memory → Nat → Option Byte
  | [], _ => none
  | (k, v) :: m, a => if a = k then some v else memLookup m a

/-- The contents without an offset. -/
def memErase : Memory → Nat → Memory
  | [], _ => []
  | (k, v) :: m, a => if a = k then m else (k, v) :: memErase m a

/-- The contents with a byte listed at an offset, in order. -/
def memInsert : Memory → Nat → Byte → Memory
  | [], a, b => [(a, b)]
  | (k, v) :: m, a, b =>
    if a < k then (a, b) :: (k, v) :: m
    else if a = k then (a, b) :: m
    else (k, v) :: memInsert m a b

/-- One byte stored. Storing what an unlisted offset reads as removes the entry. -/
def memStore (b : Buf) (m : Memory) (a : Nat) (v : Byte) : Memory :=
  if b.unlisted = some v then memErase m a else memInsert m a v

/-- A sequence of bytes stored from an offset upward. -/
def memStoreBytes (b : Buf) : Memory → Nat → List Byte → Memory
  | m, _, [] => m
  | m, a, v :: vs => memStoreBytes b (memStore b m a v) (a + 1) vs

/-- Every byte at an offset of `n` or more set to 0x00. -/
def memZeroFrom (m : Memory) (n : Nat) : Memory := m.filter (fun c => decide (c.1 < n))

/-- The byte a buffer's contents read as at an offset: the listed byte, or what an unlisted offset reads as; an unlisted byte
of `CTBUF` is the free value of R169. -/
def cellByte (b : Buf) (m : Memory) (a : Nat) : Byte :=
  match memLookup m a with
  | some v => v
  | none =>
    match b.unlisted with
    | some v => v
    | none => Config.unwrittenCt a

/-- One byte of a buffer, with no bound on the offset. -/
def State.byteAt (s : State) (b : Buf) (a : Nat) : Byte := cellByte b (s.buf b) a

/-- `MemRead(BUF, off, 16)` (R12): the sixteen bytes from `off` on, or nothing where they do not lie in the buffer. -/
def memReadBlock (b : Buf) (off : Nat) (s : State) : Option Block :=
  if off + 16 ≤ b.size s.params then some (Vector.ofFn fun j => s.byteAt b (off + j.val)) else none

/-- `MemRead(BUF, off, 1)[0]` (R12). -/
def memReadByte (b : Buf) (off : Nat) (s : State) : Option Byte :=
  if off < b.size s.params then some (s.byteAt b off) else none

/-- `MemWrite(BUF, off, n, v)` (R12). -/
def memWrite (b : Buf) (off : Nat) (v : List Byte) (s : State) : Option State :=
  if off + v.length ≤ b.size s.params then some (s.setBuf b (memStoreBytes b (s.buf b) off v)) else none

/-! ### Errors -/

/-- `raise K` (R134, R153): the kind is latched, the sequencer goes to `FAIL`, and nothing else of the raising phase's effect
is performed. Nothing is saved and no mode changes. -/
def raise (k : ErrorKind) (s : State) : State := { s with errk := .err k, phase := .fail }

/-- The release of a response, the body of `CLEAR` and the first half of `START` in `DONE` (R127, R137, R154): `DEC` zeroed,
`PTLEN` and `STATUS` cleared. The caller sets the phase. -/
def clearResponse (s : State) : State := { s with dec := memZeroFrom s.dec 0, ptlen := 0, status := .ok }

/-- The sampling of `ENGINE_FAULT` (R138): a sampled step raises `CipherEngineFailure` instead of its normal effect when the
input is 1. -/
def sampled (s : State) (effect : StepResult) : StepResult :=
  if s.engineFault then .next (raise .cipherEngineFailure s) else effect

/-! ### Wipe and reset -/

/-- How much of `DEC` the wipe keeps: nothing after an error, the first `PTLEN` bytes after a success (R135). -/
def keptByWipe (s : State) : Nat := if s.errk = .ok then s.ptlen else 0

/-- The body of `WIPE` (R135), all but the transfer to `DONE`. -/
def wiped (s : State) : State :=
  { s with
    w := zeroSchedule
    sreg := zeroBlock
    prev := zeroBlock
    cur := zeroBlock
    p := 0x00#8
    blk := 0
    rnd := 0#4
    ki := 0#6
    keybuf := memStoreBytes .keybuf s.keybuf 0 (List.replicate 32 0x00#8)
    ivbuf := memStoreBytes .ivbuf s.ivbuf 0 (List.replicate 16 0x00#8)
    dec := memZeroFrom s.dec (keptByWipe s)
    status := s.errk
    errk := .ok }

/-- The `RESET` input (spec/70_reset_and_hazards.md R161, R162; spec/10_state.md R39): everything but `CTBUF` and `DEC`, which
are not cleared, goes to its reset value. The parameters, the level of the `ENGINE_FAULT` input and the model's own fields are
no state of the core. -/
def applyReset (s : State) : State :=
  { s with
    klen := 0
    ivlen := 0
    ctlen := 0
    ptlen := 0
    status := .ok
    keybuf := []
    ivbuf := []
    sreg := zeroBlock
    prev := zeroBlock
    cur := zeroBlock
    p := 0x00#8
    w := zeroSchedule
    phase := .idle
    blk := 0
    rnd := 0#4
    ki := 0#6
    errk := .ok }

/-- A pure operation returns its value and does nothing else: "Side effects: none beyond returning a value" (R125). -/
def returnPure (v : PureValue) (s : State) : StepResult := .next { s with pureValue := some v }

end Sys2Proof.Machine
end

