-- ==== Sys2Proof/Machine/Operands.lean ====
section
/-! DEFINITION. The operands of the operations: the fields of a request and what the phases take from them
(spec/30_encoding.md R59, R65, R66; spec/20_memory.md R42). -/

namespace Sys2Proof.Machine

/-- The key of the request: `KEYBUF[0 .. 32)` (R59). -/
def keyOperand (s : State) : Key := Vector.ofFn fun j => s.byteAt .keybuf j.val

/-- The IV of the request: `IVBUF[0 .. 16)` (R59). -/
def ivOperand (s : State) : Block := Vector.ofFn fun j => s.byteAt .ivbuf j.val

/-- The ciphertext of the request: `CTBUF[0 .. CTLEN)` (R59). -/
def ctOperand (s : State) : List Byte := (List.range s.ctlen).map fun j => s.byteAt .ctbuf j

/-- The number of blocks `n = CTLEN / 16` (R65). -/
def blockCount (s : State) : Nat := s.ctlen / 16

/-- The offset of the block in work: `16 * BLK` (R42). -/
def blockOffset (s : State) : Nat := 16 * s.blk

/-- The alignment test of the ciphertext length: zero, or not a multiple of 16 (R65, spec/20_memory.md R48). -/
def ctLengthBad (n : Nat) : Bool := n == 0 || n % 16 != 0

/-- The last byte of the decrypted sequence, `DEC[CTLEN - 1]` (R42); nothing where there is none. -/
def lastByte (s : State) : Option Byte := if s.ctlen = 0 then none else memReadByte .dec (s.ctlen - 1) s

/-- The last block of the decrypted sequence, `DEC[CTLEN - 16 .. CTLEN)` (R49); nothing where there is none. -/
def lastBlock (s : State) : Option Block := if s.ctlen < 16 then none else memReadBlock .dec (s.ctlen - 16) s

end Sys2Proof.Machine
end

