-- ==== Sys2Proof/Machine/Chaining.lean ====
section
/-! DEFINITION. The CBC chaining phases, `LOADBLK` and `CBCXOR` (spec/43_cbc_chaining.md R106, R107, R108). -/

namespace Sys2Proof.Machine

/-- `LOADBLK` (R106); `ENGINE_FAULT` is sampled (R138). -/
def execLoadblk (s : State) : StepResult :=
  sampled s
    (match memReadBlock .ctbuf (blockOffset s) s with
     | none => .fault .bufferBound
     | some c => .next { s with sreg := c, cur := c, rnd := 14#4, phase := .invcipher })

/-- The control transfer of `CBCXOR`: the next block, or the padding validator after the last (R107, R108). -/
def nextBlock (s : State) : State :=
  if s.blk + 1 < blockCount s then { s with blk := s.blk + 1, phase := .loadblk } else { s with phase := .padread }

/-- `CBCXOR` (R107); `ENGINE_FAULT` is sampled (R138). -/
def execCbcxor (s : State) : StepResult :=
  sampled s
    (match memWrite .dec (blockOffset s) (xorBlock s.sreg s.prev).toList s with
     | none => .fault .bufferBound
     | some t => .next (nextBlock { t with prev := s.cur }))

end Sys2Proof.Machine
end

