-- ==== Sys2Proof/Machine/Cipher.lean ====
section
/-! DEFINITION. The phases of the cipher, `KEXP` and `INVCIPHER`, one step each (spec/41_key_expansion.md R86, R90;
spec/42_block_decrypt.md R99, R100). -/

namespace Sys2Proof.Machine

/-- The first step of `KEXP`: the eight key words copied, `KI <- 8` (R90). -/
def kexpCopy (s : State) : State := { s with w := copyKey (keyOperand s) s.w, ki := 8#6 }

/-- A later step of `KEXP`: word `KI` computed, `KI <- KI + 1` (R90). -/
def kexpWord (s : State) : State :=
  { s with w := s.w.set! s.ki.toNat (expandWord s.w s.ki.toNat), ki := s.ki + 1#6 }

/-- The end of `KEXP`: to `LOADBLK` with `BLK <- 0` when `KI = 60` (R86, R90). -/
def kexpEnd (s : State) : State := if s.ki = 60#6 then { s with phase := .loadblk, blk := 0 } else s

/-- `KEXP`, one step (R86, R90); `ENGINE_FAULT` is sampled (R138). `KI` is 0 on entry, because the wipe and reset leave it so;
the values 1 to 7 and 60 to 63 are unreachable here. -/
def execKexp (s : State) : StepResult :=
  sampled s
    (if s.ki = 0#6 then .next (kexpCopy s)
     else if 8 ≤ s.ki.toNat ∧ s.ki.toNat < 60 then .next (kexpEnd (kexpWord s))
     else .refused .unreachableState)

/-- `INVCIPHER`, one round step (R99, R100); `ENGINE_FAULT` is sampled (R138). `RND = 15` is unreachable. -/
def execInvcipher (s : State) : StepResult :=
  sampled s
    (if s.rnd = 14#4 then .next { s with sreg := addRoundKey s.sreg (roundKey s.w 14), rnd := 13#4 }
     else if s.rnd = 15#4 then .refused .unreachableState
     else if s.rnd = 0#4 then .next { s with sreg := invFinalRound s.w s.sreg, phase := .cbcxor }
     else .next { s with sreg := invRound s.w s.rnd.toNat s.sreg, rnd := s.rnd - 1#4 })

end Sys2Proof.Machine
end

