-- ==== Sys2Proof/Machine/Commands.lean ====
section
/-! DEFINITION. The two host commands, `START` and `CLEAR` (spec/45_decrypt_operation.md R127, R137). -/

namespace Sys2Proof.Machine

/-- `START` (R127): accepted in `IDLE`; accepted in `DONE`, where it first releases the response; ignored while a request is
in progress. -/
def execStart (s : State) : StepResult :=
  if s.phase = .idle then .next { s with phase := .validate }
  else if s.phase = .done then .next { clearResponse s with phase := .validate }
  else .next s

/-- `CLEAR` (R137): accepted only in `DONE`; ignored elsewhere. -/
def execClear (s : State) : StepResult :=
  if s.phase = .done then .next { clearResponse s with phase := .idle } else .next s

end Sys2Proof.Machine
end

