-- ==== Sys2Proof/Machine/Control.lean ====
section
/-! DEFINITION. The phases that begin, end and separate requests: `IDLE`, `VALIDATE`, `FAIL`, `WIPE`, `DONE`
(spec/45_decrypt_operation.md R126, R128, R134, R135, R136). -/

namespace Sys2Proof.Machine

/-- `IDLE` (R126): the sequencer does nothing. -/
def execIdle (s : State) : StepResult := .next s

/-- `VALIDATE` (R128): the three length checks in the order key, IV, ciphertext, then the capacity check (R131). -/
def execValidate (s : State) : StepResult :=
  if s.klen ≠ Config.keyBytes then .next (raise .invalidKeyLength s)
  else if s.ivlen ≠ Config.ivBytes then .next (raise .invalidIvLength s)
  else if ctLengthBad s.ctlen then .next (raise .invalidCiphertextLength s)
  else if s.params.ctMax < s.ctlen then .next (raise .cipherEngineFailure s)
  else .next { s with prev := ivOperand s, phase := .kexp }

/-- `FAIL` (R134). -/
def execFail (s : State) : StepResult := .next { s with ptlen := 0, phase := .wipe }

/-- `WIPE` (R135). -/
def execWipe (s : State) : StepResult := .next { wiped s with phase := .done }

/-- `DONE` (R136): the sequencer does nothing. -/
def execDone (s : State) : StepResult := .next s

end Sys2Proof.Machine
end

