-- ==== Sys2Proof/Machine/Request.lean ====
section
/-! DEFINITION. The functions of the transaction level: `CbcDecrypt` (spec/43_cbc_chaining.md R105), `Unpad`
(spec/44_pkcs7_validator.md R120) and `Decrypt` (spec/45_decrypt_operation.md R124). -/

namespace Sys2Proof.Machine

/-- Block `i` of a byte sequence: `x[16i .. 16i + 16)` (spec/20_memory.md R42). -/
def blockOf (x : List Byte) (i : Nat) : Block := Vector.ofFn fun j => x.getD (16 * i + j.val) 0x00#8

/-- The block that block `i` is chained to: the IV before block 0, ciphertext block `i - 1` before block `i` (R105). -/
def chainBlock (iv : Block) (ct : List Byte) : Nat → Block
  | 0 => iv
  | i + 1 => blockOf ct i

/-- Decrypted block `i`: `xor16(InvCipher(C_i, W), C_(i-1))` (R105). -/
def decBlock (w : Schedule) (iv : Block) (ct : List Byte) (i : Nat) : Block :=
  xorBlock (invCipher (blockOf ct i) w) (chainBlock iv ct i)

/-- `CbcDecrypt(W, iv, ct)` (R105). -/
def cbcDecrypt (w : Schedule) (iv : Block) (ct : List Byte) : List Byte :=
  (List.range (ct.length / 16)).flatMap fun i => (decBlock w iv ct i).toList

/-- Whether `p` is outside 1 to 16 (R116, R120 step 3). -/
def padOutOfRange (p : Byte) : Bool := p.toNat < 1 || 16 < p.toNat

/-- Whether the `p` trailing bytes of a sequence all equal `p` (R120 step 5, `PAD_POLICY = STRICT`). -/
def trailingBytesEqual (dec : List Byte) (p : Byte) : Bool :=
  (List.range p.toNat).all fun j => dec.getD (dec.length - (j + 1)) 0x00#8 == p

/-- `Unpad(dec)` (R120). -/
def unpad (dec : List Byte) : DecryptResult :=
  let p := dec.getD (dec.length - 1) 0x00#8
  if padOutOfRange p then .err .invalidPadding
  else if dec.length < p.toNat then .err .invalidPadding
  else if trailingBytesEqual dec p then .ok (dec.take (dec.length - p.toNat))
  else .err .invalidPadding

/-- The check of `PADFULL` on the last decrypted block: all sixteen positions are examined, and those at `j ≤ P` from the end
must equal `P` (R118, R122). -/
def paddingUniform (p : Byte) (last : Block) : Bool :=
  (List.range 16).all fun j => !(decide (j + 1 ≤ p.toNat) && last[15 - j]! != p)

/-- A sequence of exactly 32 bytes as a key. -/
def keyOfBytes (key : List Byte) : Key := Vector.ofFn fun j => key.getD j.val 0x00#8

/-- `Decrypt(key, iv, ct, fault)` on an instance of capacity `CT_MAX` (R124). -/
def decrypt (ctMax : Nat) (key iv ct : List Byte) (fault : Bool) : DecryptResult :=
  if key.length ≠ 32 then .err .invalidKeyLength
  else if iv.length ≠ 16 then .err .invalidIvLength
  else if ct.length = 0 ∨ ct.length % 16 ≠ 0 then .err .invalidCiphertextLength
  else if ctMax < ct.length then .err .cipherEngineFailure
  else if fault then .err .cipherEngineFailure
  else unpad (cbcDecrypt (keyExpansion (keyOfBytes key)) (blockOf iv 0) ct)

end Sys2Proof.Machine
end

