-- ==== Sys2Proof/Machine/Padding.lean ====
section
/-! DEFINITION. The PKCS#7 validator's phases: `PADREAD`, `PADRANGE`, `PADLEN`, `PADFULL`, `TRUNC`
(spec/44_pkcs7_validator.md R115 to R119). -/

namespace Sys2Proof.Machine

/-- `PADREAD` (R115). -/
def execPadread (s : State) : StepResult :=
  match lastByte s with
  | none => .fault .bufferBound
  | some b => .next { s with p := b, phase := .padrange }

/-- `PADRANGE` (R116). -/
def execPadrange (s : State) : StepResult :=
  if padOutOfRange s.p then .next (raise .invalidPadding s) else .next { s with phase := .padlen }

/-- `PADLEN` (R117). -/
def execPadlen (s : State) : StepResult :=
  if s.ctlen < s.p.toNat then .next (raise .invalidPadding s) else .next { s with phase := .padfull }

/-- `PADFULL` (R118). -/
def execPadfull (s : State) : StepResult :=
  match lastBlock s with
  | none => .fault .bufferBound
  | some b => if paddingUniform s.p b then .next { s with phase := .trunc } else .next (raise .invalidPadding s)

/-- `TRUNC` (R119). The subtraction is written only where `CTLEN >= P` (R10, R85): the other case is unreachable. -/
def execTrunc (s : State) : StepResult :=
  if s.ctlen < s.p.toNat then .refused .unreachableState
  else .next { s with ptlen := s.ctlen - s.p.toNat, phase := .wipe }

end Sys2Proof.Machine
end

