-- ==== Sys2Proof/Machine/Pure.lean ====
section
/-! DEFINITION. The pure operations of the table: the round primitives (format `PRIM`) and the functions (format `FUNC`). Each
returns its value and does nothing else (spec/30_encoding.md R72, spec/45_decrypt_operation.md R125; log entry 6). -/

namespace Sys2Proof.Machine

/-- `ADDRK(s, k)` (R95). -/
def execAddrk (b k : Block) (s : State) : StepResult := returnPure (.block (addRoundKey b k)) s

/-- `INVSHIFTROWS(s)` (R96). -/
def execInvshiftrows (b : Block) (s : State) : StepResult := returnPure (.block (invShiftRows b)) s

/-- `INVSUBBYTES(s)` (R97). -/
def execInvsubbytes (b : Block) (s : State) : StepResult := returnPure (.block (invSubBytes b)) s

/-- `INVMIXCOLS(s)` (R98). -/
def execInvmixcols (b : Block) (s : State) : StepResult := returnPure (.block (invMixCols b)) s

/-- `KeyExpansion(key)` (R87). -/
def execKeyExpansionFn (key : Key) (s : State) : StepResult := returnPure (.schedule (keyExpansion key)) s

/-- `InvCipher(c, W)` (R99). -/
def execInvCipherFn (c : Block) (w : Schedule) (s : State) : StepResult := returnPure (.block (invCipher c w)) s

/-- `CbcDecrypt(W, iv, ct)` (R105), on whole blocks, at least one. -/
def execCbcDecryptFn (w : Schedule) (iv : Block) (ct : List Byte) (s : State) : StepResult :=
  if wholeBlocks ct && atLeastOneBlock ct then returnPure (.bytes (cbcDecrypt w iv ct)) s
  else .refused .outsideDomain

/-- `Unpad(dec)` (R120), on at least 16 bytes. -/
def execUnpadFn (dec : List Byte) (s : State) : StepResult :=
  if atLeastOneBlock dec then returnPure (.result (unpad dec)) s else .refused .outsideDomain

/-- `Decrypt(key, iv, ct, fault)` (R124), on this instance's capacity. -/
def execDecryptFn (key iv ct : List Byte) (fault : Bool) (s : State) : StepResult :=
  returnPure (.result (decrypt s.params.ctMax key iv ct fault)) s

end Sys2Proof.Machine
end

