-- ==== Sys2Proof/Machine/Dispatch.lean ====
section
/-! DEFINITION. The meaning of every operation of spec/opcode_table.json, one arm each. -/

namespace Sys2Proof.Machine

/-- What one operation does to a state. -/
def exec (i : Instr) (s : State) : Host.Outcome State Fault Refusal :=
  match i with
  | .start => Sys2Proof.Machine.execStart s
  | .clear => Sys2Proof.Machine.execClear s
  | .idle => Sys2Proof.Machine.execIdle s
  | .validate => Sys2Proof.Machine.execValidate s
  | .kexp => Sys2Proof.Machine.execKexp s
  | .loadblk => Sys2Proof.Machine.execLoadblk s
  | .invcipher => Sys2Proof.Machine.execInvcipher s
  | .cbcxor => Sys2Proof.Machine.execCbcxor s
  | .padread => Sys2Proof.Machine.execPadread s
  | .padrange => Sys2Proof.Machine.execPadrange s
  | .padlen => Sys2Proof.Machine.execPadlen s
  | .padfull => Sys2Proof.Machine.execPadfull s
  | .trunc => Sys2Proof.Machine.execTrunc s
  | .fail => Sys2Proof.Machine.execFail s
  | .wipe => Sys2Proof.Machine.execWipe s
  | .done => Sys2Proof.Machine.execDone s
  | .addrk b k => Sys2Proof.Machine.execAddrk b k s
  | .invshiftrows b => Sys2Proof.Machine.execInvshiftrows b s
  | .invsubbytes b => Sys2Proof.Machine.execInvsubbytes b s
  | .invmixcols b => Sys2Proof.Machine.execInvmixcols b s
  | .keyExpansionFn key => Sys2Proof.Machine.execKeyExpansionFn key s
  | .invCipherFn c w => Sys2Proof.Machine.execInvCipherFn c w s
  | .cbcDecryptFn w iv ct => Sys2Proof.Machine.execCbcDecryptFn w iv ct s
  | .unpadFn dec => Sys2Proof.Machine.execUnpadFn dec s
  | .decryptFn key iv ct fault => Sys2Proof.Machine.execDecryptFn key iv ct fault s

end Sys2Proof.Machine
end

