-- ==== Sys2Proof/Machine/Flags.lean ====
section
/-! DEFINITION. The flags: `BUSY`, `DONE` and `STATUS`, the byte `STAT` reads as, and the numbers of the result codes
(spec/10_state.md R23, R37; spec/30_encoding.md R62, R63). -/

namespace Sys2Proof.Machine

/-- The number of an error kind (R63). -/
def kindCode : ErrorKind → BitVec 3
  | .invalidKeyLength => 1#3
  | .invalidIvLength => 2#3
  | .invalidCiphertextLength => 3#3
  | .invalidPadding => 4#3
  | .cipherEngineFailure => 5#3

/-- The number of a result code (R63). -/
def Code.bits : Code → BitVec 3
  | .ok => 0#3
  | .err k => kindCode k

/-- `DONE = 1` exactly when `PHASE = DONE` (R23). -/
def isDone (s : State) : Bool := s.phase == .done

/-- `BUSY = 1` exactly when `PHASE` is none of `IDLE`, `DONE` (R23). -/
def isBusy (s : State) : Bool := !(s.phase == .idle) && !(s.phase == .done)

/-- The `STATUS` field as it reads: the code while `DONE = 1`, 0 otherwise (R23). -/
def statusField (s : State) : BitVec 3 := if isDone s then s.status.bits else 0#3

/-- The byte `STAT` reads as: `BUSY` bit 0, `DONE` bit 1, `STATUS` bits 4:2, bits 7:5 zero (R23, R62). -/
def statByte (s : State) : Byte :=
  0#3 ++ statusField s ++ BitVec.ofBool (isDone s) ++ BitVec.ofBool (isBusy s)

/-- What `PTLEN` reads as: 0 when `DONE = 0` (R25). -/
def ptlenRead (s : State) : Nat := if isDone s then s.ptlen else 0

/-- The gate of the `PT` window (R30, spec/20_memory.md R51). -/
def ptOpen (s : State) (j : Nat) : Bool := isDone s && s.status == .ok && decide (j < s.ptlen)

/-- A byte of the `PT` window (R51). -/
def ptByte (s : State) (j : Nat) : Byte := if ptOpen s j then s.byteAt .dec j else 0x00#8

end Sys2Proof.Machine
end

