-- ==== Sys2Proof/Machine/Port.lean ====
section
/-! DEFINITION. The turn of each agent: the sequencer performs the operation its `PHASE` selects; the host writes and reads
registers and windows; the reset input and the environment act (spec/00_scope.md R8; spec/10_state.md R21 to R30;
spec/20_memory.md R41, R49 to R52; spec/30_encoding.md R61, R67, R69). -/

namespace Sys2Proof.Machine

/-- A step of the sequencer: the code in `PHASE` is decoded and the operation performed (R64). -/
def sequencerStep (s : State) : StepResult :=
  match decode (.phase s.phase.code) with
  | .ok i => exec i s
  | .error _ => .refused .reservedPhase

/-- A write to `CTRL`: the byte is decoded and the command performed; 0x00 and the reserved values change nothing
(R22, R61, R67). -/
def hostCommand (v : Byte) (s : State) : StepResult :=
  match decode (.ctrl v) with
  | .ok i => exec i s
  | .error _ => .next s

/-- A host write of a length register (R21, R24): the whole new value, or nothing while `BUSY = 1` (R50, R52). A value that does
not fit cannot be written (R170); it is refused, also while `BUSY = 1` (DESIGN CHOICE, log entries 9 and 11). -/
def writeLength (v : Nat) (s : State) (new : State) : StepResult :=
  if 2 ^ s.params.lenW ≤ v then .refused .valueTooWide
  else if isBusy s then .next s
  else .next new

/-- A host write of register `number` (R21, R22 to R25). `STAT` and `PTLEN` are read-only: writes are ignored. A
value of 256 or more is refused for the 8-bit `CTRL` (DESIGN CHOICE, log entry 9). -/
def hostWriteReg (number value : Nat) (s : State) : StepResult :=
  match number with
  | 0 => if value < 256 then hostCommand (BitVec.ofNat 8 value) s else .refused .valueTooWide
  | 1 => .next s
  | 2 => writeLength value s { s with klen := value }
  | 3 => writeLength value s { s with ivlen := value }
  | 4 => writeLength value s { s with ctlen := value }
  | 5 => .next s
  | _ => .refused .unassignedRegister

/-- What register `number` reads as (R21 to R25); 6 and above are unassigned (R69). -/
def regValue (number : Nat) (s : State) : Option Nat :=
  match number with
  | 0 => some 0
  | 1 => some (statByte s).toNat
  | 2 => some s.klen
  | 3 => some s.ivlen
  | 4 => some s.ctlen
  | 5 => some (ptlenRead s)
  | _ => none

/-- A host read of register `number`. Reads have no side effects (R50): only the answer is recorded. -/
def hostReadReg (number : Nat) (s : State) : StepResult :=
  match regValue number s with
  | none => .refused .unassignedRegister
  | some v => .next { s with readData := some (.reg v) }

/-- The size of a window in bytes (R21, R40). -/
def windowSize (w : Window) (p : Config.Params) : Nat :=
  match w with
  | .keybuf => Config.keyBytes
  | .ivbuf => Config.ivBytes
  | .ctbuf => p.ctMax
  | .pt => p.ctMax

/-- The state after the host has stored a byte through a window: the three request buffers take it, `PT` is read-only and
ignores it (R26, R27, R28, R30). -/
def windowStore (w : Window) (off : Nat) (v : Byte) (s : State) : State :=
  match w with
  | .keybuf => { s with keybuf := memStore .keybuf s.keybuf off v }
  | .ivbuf => { s with ivbuf := memStore .ivbuf s.ivbuf off v }
  | .ctbuf => { s with ctbuf := memStore .ctbuf s.ctbuf off v }
  | .pt => s

/-- A host write of one byte of a window: ignored while `BUSY = 1` (R52), refused outside the window (R41), which is tested first
(DESIGN CHOICE, log entry 11). -/
def hostWriteByte (w : Window) (off : Nat) (v : Byte) (s : State) : StepResult :=
  if windowSize w s.params ≤ off then .refused .outsideWindow
  else if isBusy s then .next s
  else .next (windowStore w off v s)

/-- What a byte of a window reads as: `KEYBUF` and `IVBUF` cannot be read back, `PT` is gated (R26, R27, R28, R51). -/
def windowByte (w : Window) (off : Nat) (s : State) : Byte :=
  match w with
  | .keybuf => 0x00#8
  | .ivbuf => 0x00#8
  | .ctbuf => s.byteAt .ctbuf off
  | .pt => ptByte s off

/-- A host read of one byte of a window: refused outside the window (R41). -/
def hostReadByte (w : Window) (off : Nat) (s : State) : StepResult :=
  if windowSize w s.params ≤ off then .refused .outsideWindow
  else .next { s with readData := some (.byte (windowByte w off s)) }

/-- What one event does. `RESET` is an atomic event between accesses (spec/93_implementation_defined.md U14). -/
def handle (e : Event) (s : State) : StepResult :=
  match e with
  | .tick => sequencerStep s
  | .reset => .next (applyReset s)
  | .engineFault level => .next { s with engineFault := level }
  | .writeReg number value => hostWriteReg number value s
  | .readReg number => hostReadReg number s
  | .writeByte w off v => hostWriteByte w off v s
  | .readByte w off => hostReadByte w off s

/-- The next step: the first queued event, or the sequencer's turn where none is queued ("the sequencer, when BUSY = 1,
eventually takes its next step", R139). -/
def nextStep (s : State) : StepResult :=
  match s.inputs with
  | [] => sequencerStep s
  | e :: rest => handle e { s with inputs := rest }

/-- The state in which the very next step performs what a row of the operation table selects: a `CTRL` row is a host write of
the byte to `CTRL` at the head of the queue; a `PHASE` row is the code in `PHASE` and the sequencer's turn at the head of the
queue (log entry 3). -/
def placeTableWord (s : State) (nbits w : Nat) : State :=
  match tableSelector nbits w with
  | some (.ctrl v) => { s with inputs := .writeReg 0 v.toNat :: s.inputs }
  | some (.phase c) =>
    match Phase.ofCode c with
    | some ph => { s with phase := ph, inputs := .tick :: s.inputs }
    | none => s
  | none => s

end Sys2Proof.Machine
end

