-- ==== Sys2Proof/Machine/Step.lean ====
section
/-! DEFINITION. One step of the machine. -/

namespace Sys2Proof.Machine

/-- One step: the turn of one agent. -/
def step (s : State) : Host.Outcome State Fault Refusal := nextStep s

/-- `s` with the operation that a table row denotes placed where the next step takes it from. -/
def State.withFetchWord (s : State) (nbits w : Nat) : State := placeTableWord s nbits w

end Sys2Proof.Machine
end

