-- ==== Sys2Proof/Machine/Fixture.lean ====
section
/-! DEFINITION. NOT PART OF THE HARDWARE: the test fixture that spec/95_test_vectors.md section 0 defines so that a model can
state the round-trip law (the forward cipher, CBC encryption, the padder), and the padding policy this hardware does not have,
which spec/44_pkcs7_validator.md R121 documents. No step of the machine uses any of it. -/

namespace Sys2Proof.Machine

/-- `SUBBYTES(s)` of the fixture. -/
def subBytes (s : Block) : Block := Vector.ofFn fun j => sbox s[j]

/-- Where `SHIFTROWS` takes byte `j` of its result from: row `r` is rotated left by `r`. -/
def shiftSource (j : Nat) : Nat := j % 4 + 4 * ((j / 4 + j % 4) % 4)

/-- `SHIFTROWS(s)` of the fixture. -/
def shiftRows (s : Block) : Block := Vector.ofFn fun j => s[shiftSource j.val]!

/-- Row `r` of a column multiplied by the forward matrix. -/
def mixRow (a0 a1 a2 a3 : Byte) (r : Nat) : Byte :=
  match r with
  | 0 => gfMul 0x02#8 a0 ^^^ gfMul 0x03#8 a1 ^^^ a2 ^^^ a3
  | 1 => a0 ^^^ gfMul 0x02#8 a1 ^^^ gfMul 0x03#8 a2 ^^^ a3
  | 2 => a0 ^^^ a1 ^^^ gfMul 0x02#8 a2 ^^^ gfMul 0x03#8 a3
  | _ => gfMul 0x03#8 a0 ^^^ a1 ^^^ a2 ^^^ gfMul 0x02#8 a3

/-- `MIXCOLS(s)` of the fixture. -/
def mixCols (s : Block) : Block :=
  Vector.ofFn fun j =>
    mixRow s[4 * (j.val / 4)]! s[4 * (j.val / 4) + 1]! s[4 * (j.val / 4) + 2]! s[4 * (j.val / 4) + 3]! (j.val % 4)

/-- The full rounds of the forward cipher, from round `r` on, `n` of them. -/
def cipherRounds (w : Schedule) : Nat → Nat → Block → Block
  | 0, _, s => s
  | n + 1, r, s => cipherRounds w n (r + 1) (addRoundKey (mixCols (shiftRows (subBytes s))) (roundKey w r))

/-- `Cipher(x, W)`, the AES-256 forward cipher. -/
def cipher (x : Block) (w : Schedule) : Block :=
  addRoundKey (shiftRows (subBytes (cipherRounds w 13 1 (addRoundKey x (roundKey w 0))))) (roundKey w 14)

/-- The ciphertext block `C_i` of `CbcEncrypt`, from `C_0 = Cipher(m_0 xor iv)` upward. -/
def encBlock (w : Schedule) (iv : Block) (m : List Byte) : Nat → Block
  | 0 => cipher (xorBlock (blockOf m 0) iv) w
  | i + 1 => cipher (xorBlock (blockOf m (i + 1)) (encBlock w iv m i)) w

/-- `CbcEncrypt(W, iv, m)`. -/
def cbcEncrypt (w : Schedule) (iv : Block) (m : List Byte) : List Byte :=
  (List.range (m.length / 16)).flatMap fun i => (encBlock w iv m i).toList

/-- The number of padding bytes: `16 - (len(pt) mod 16)`. -/
def padCount (pt : List Byte) : Nat := 16 - pt.length % 16

/-- `Pad(pt)`. -/
def pad (pt : List Byte) : List Byte := pt ++ List.replicate (padCount pt) (BitVec.ofNat 8 (padCount pt))

/-- `Encrypt(key, iv, pt)`. -/
def encrypt (key : Key) (iv : Block) (pt : List Byte) : List Byte := cbcEncrypt (keyExpansion key) iv (pad pt)

/-- `Unpad` under `PAD_POLICY = LAST_BYTE_ONLY`, the behaviour this hardware does not have (R121). -/
def unpadLastByteOnly (dec : List Byte) : DecryptResult :=
  let p := dec.getD (dec.length - 1) 0x00#8
  if padOutOfRange p then .err .invalidPadding
  else if dec.length < p.toNat then .err .invalidPadding
  else .ok (dec.take (dec.length - p.toNat))

end Sys2Proof.Machine
end

