-- ==== Sys2Proof/Safety.lean ====
section
/-! DEFINITION. The terms in which statements about runs are made: runs, the response, the request the host loads, and the
invariant of the machine. -/

namespace Sys2Proof.Machine

/-- `n` steps, if none of them stops. -/
def runSteps : Nat → State → Option State
  | 0, s => some s
  | n + 1, s =>
    match step s with
    | .next t => runSteps n t
    | .fault _ => none
    | .refused _ => none

/-- The response of the port while `DONE = 1`: `Ok(PT[0 .. PTLEN))` or `Err(kind)` (spec/30_encoding.md R60). -/
def response (s : State) : DecryptResult :=
  match s.status with
  | .ok => .ok ((List.range s.ptlen).map fun j => ptByte s j)
  | .err k => .err k

/-- The registers the wipe zeroes are zero: nothing of a request is left in the datapath and the sequencer
(spec/10_state.md R38, R39). -/
structure Quiet (s : State) : Prop where
  w : s.w = zeroSchedule
  sreg : s.sreg = zeroBlock
  prev : s.prev = zeroBlock
  cur : s.cur = zeroBlock
  p : s.p = 0x00#8
  blk : s.blk = 0
  rnd : s.rnd = 0#4
  ki : s.ki = 0#6

/-- The lengths of an accepted request: what `VALIDATE` has established (R128, spec/20_memory.md R43). -/
structure Accepted (s : State) : Prop where
  klen : s.klen = 32
  ivlen : s.ivlen = 16
  ctlen_pos : 16 ≤ s.ctlen
  ctlen_aligned : s.ctlen % 16 = 0
  ctlen_fits : s.ctlen ≤ s.params.ctMax

/-- No response is held: `STATUS` and `PTLEN` are 0 (R23, R25). -/
structure NoResponse (s : State) : Prop where
  status : s.status = .ok
  ptlen : s.ptlen = 0

/-- What holds in each phase. -/
def PhaseInv (s : State) : Prop :=
  match s.phase with
  | .idle => Quiet s ∧ NoResponse s ∧ s.errk = .ok
  | .validate => Quiet s ∧ NoResponse s ∧ s.errk = .ok
  | .kexp => Accepted s ∧ NoResponse s ∧ s.errk = .ok ∧ (s.ki = 0#6 ∨ (8 ≤ s.ki.toNat ∧ s.ki.toNat < 60))
  | .loadblk => Accepted s ∧ NoResponse s ∧ s.errk = .ok ∧ s.blk < s.ctlen / 16
  | .invcipher => Accepted s ∧ NoResponse s ∧ s.errk = .ok ∧ s.blk < s.ctlen / 16 ∧ s.rnd ≠ 15#4
  | .cbcxor => Accepted s ∧ NoResponse s ∧ s.errk = .ok ∧ s.blk < s.ctlen / 16
  | .padread => Accepted s ∧ NoResponse s ∧ s.errk = .ok
  | .padrange => Accepted s ∧ NoResponse s ∧ s.errk = .ok
  | .padlen => Accepted s ∧ NoResponse s ∧ s.errk = .ok ∧ 1 ≤ s.p.toNat ∧ s.p.toNat ≤ 16
  | .padfull => Accepted s ∧ NoResponse s ∧ s.errk = .ok ∧ 1 ≤ s.p.toNat ∧ s.p.toNat ≤ 16
  | .trunc => Accepted s ∧ NoResponse s ∧ s.errk = .ok ∧ 1 ≤ s.p.toNat ∧ s.p.toNat ≤ 16
  | .fail => s.status = .ok ∧ s.errk ≠ .ok ∧ s.ptlen = 0
  | .wipe => s.status = .ok ∧ s.ptlen < s.params.ctMax ∧ (s.errk ≠ .ok → s.ptlen = 0)
  | .done => Quiet s ∧ s.errk = .ok ∧ s.ptlen < s.params.ctMax ∧ (s.status ≠ .ok → s.ptlen = 0) ∧
      Memory.within s.ptlen s.dec

/-- The invariant of the machine: the instance's parameters are legal, every buffer is in canonical form and within its size,
the length registers hold values of their width, and the phase's own condition holds. -/
structure Inv (s : State) : Prop where
  params : s.params.wf
  mem_wf : ∀ b : Buf, Memory.wf b (s.buf b)
  mem_within : ∀ b : Buf, Memory.within (b.size s.params) (s.buf b)
  klen : s.klen < 2 ^ s.params.lenW
  ivlen : s.ivlen < 2 ^ s.params.lenW
  ctlen : s.ctlen < 2 ^ s.params.lenW
  phase : PhaseInv s

/-- The host actions of spec/70_reset_and_hazards.md R165 steps 2 to 4 (spec/30_encoding.md R71): the three lengths, the bytes,
and `START`. -/
def storeEvents (w : Window) : Nat → List Byte → List Event
  | _, [] => []
  | off, v :: vs => .writeByte w off v :: storeEvents w (off + 1) vs

/-- What the host queues to make a request of `Decrypt(key, iv, ct)`. -/
def requestEvents (p : Config.Params) (key iv ct : List Byte) : List Event :=
  [.writeReg 2 key.length, .writeReg 3 iv.length, .writeReg 4 ct.length]
    ++ storeEvents .keybuf 0 (key.take 32)
    ++ storeEvents .ivbuf 0 (iv.take 16)
    ++ storeEvents .ctbuf 0 (ct.take p.ctMax)
    ++ [.writeReg 0 0x01]

/-- Host accesses that are outside the spec: a register number of 6 or more (spec/30_encoding.md R69), a value that does not fit
the register (spec/70_reset_and_hazards.md R170), an offset outside the window (spec/20_memory.md R41). -/
def OutsidePort (p : Config.Params) (e : Event) : Prop :=
  match e with
  | .tick => False
  | .reset => False
  | .engineFault _ => False
  | .writeReg n v => 6 ≤ n ∨ (n = 0 ∧ 256 ≤ v) ∨ (2 ≤ n ∧ n ≤ 4 ∧ 2 ^ p.lenW ≤ v)
  | .readReg n => 6 ≤ n
  | .writeByte w off _ => windowSize w p ≤ off
  | .readByte w off => windowSize w p ≤ off

/-- A queue in which only the sequencer and the environment act, the environment in any way (R138, R150). -/
def EngineTape (es : List Event) : Prop := ∀ e ∈ es, e = .tick ∨ ∃ level, e = .engineFault level

end Sys2Proof.Machine
end

