-- ==== Sys2Proof/Certificates/Slice0/Obligations.lean ====
section
/-! DEFINITION. The statements for the provers. A statement about one operation gives the whole next state: a record update of
the old state says that every field it does not name is unchanged. Three fields are the model's own, not the spec's: `inputs`,
the queue that says in which order the agents act (log entry 10); `readData`, what the last host read answered (log entry 15);
`pureValue`, what the last pure operation returned (log entry 6). -/

open Sys2Proof Sys2Proof.Machine

/-! ### Selecting an operation -/

/-- R61, R64, R72: the decoder gives back every operation from the selector the encoder gives it. -/
def Obligations.DecodeEncodeAgree : Prop :=
  ∀ (i : Instr) (e : Selector), i.wf = true → encode i = some e → decode e = .ok i

/-- R61, R64, R67, R68: a selector that selects an operation is that operation's own; every other selector is rejected by
name. -/
def Obligations.EachSelectorHasOneMeaning : Prop :=
  (∀ (e : Selector) (i : Instr), decode e = .ok i → encode i = some e) ∧
  decode (.ctrl 0x00#8) = .error .noCommand ∧
  (∀ v : BitVec 8, 3 ≤ v.toNat → decode (.ctrl v) = .error .reservedCtrl) ∧
  (∀ c : BitVec 4, 14 ≤ c.toNat → decode (.phase c) = .error .reservedPhase)

/-- R61, R64: a few words written out from the tables of the spec. -/
def Obligations.WrittenWordsDecode : Prop :=
  decodeTableWord 8 0x01 = some .start ∧ decodeTableWord 8 0x02 = some .clear ∧
  decodeTableWord 4 0b0001 = some .validate ∧ decodeTableWord 4 0b0010 = some .kexp ∧
  decodeTableWord 4 0b0011 = some .loadblk ∧ decodeTableWord 4 0b1001 = some .padfull ∧
  decodeTableWord 4 0b1100 = some .wipe

/-- R61, R64: a write to `CTRL` of a byte that decodes to an operation runs that operation, on the state with the host's
access taken from the queue (the queue is the model's own, log entry 10); the sequencer's turn, queued or not, runs the
operation that the code in `PHASE` decodes to. -/
def Obligations.StepRunsDecodedOperation : Prop :=
  (∀ (s : State) (rest : List Event) (v : Nat) (i : Instr), s.inputs = .writeReg 0 v :: rest → v < 256 →
    decode (.ctrl (BitVec.ofNat 8 v)) = .ok i → step s = exec i { s with inputs := rest }) ∧
  (∀ (s : State) (i : Instr), s.inputs = [] → decode (.phase s.phase.code) = .ok i → step s = exec i s) ∧
  (∀ (s : State) (rest : List Event) (i : Instr), s.inputs = .tick :: rest →
    decode (.phase s.phase.code) = .ok i → step s = exec i { s with inputs := rest })

/-- R67 (and R61 for 0x00): a write to `CTRL` of a value that is no command changes no state, in any phase; only the host's
access leaves the queue. -/
def Obligations.UnusedCtrlValuesIgnored : Prop :=
  ∀ (s : State) (rest : List Event) (v : Nat), s.inputs = .writeReg 0 v :: rest → v < 256 → v ≠ 1 → v ≠ 2 →
    step s = .next { s with inputs := rest }

/-! ### The commands and the resting phases -/

/-- R127. -/
def Obligations.StartBeginsRequest : Prop :=
  ∀ s : State,
    (s.phase = .idle → exec .start s = .next { s with phase := .validate }) ∧
    (s.phase = .done → ∃ t, exec .start s = .next t ∧
      t = { s with phase := .validate, ptlen := 0, status := .ok, dec := t.dec } ∧
      ∀ a, t.byteAt .dec a = 0x00#8) ∧
    (isBusy s = true → exec .start s = .next s) ∧
    (isBusy s = false → ∃ t, exec .start s = .next t ∧ isBusy t = true ∧ isDone t = false ∧ statusField t = 0#3)

/-- R137. -/
def Obligations.ClearReleasesResponse : Prop :=
  ∀ s : State,
    (s.phase = .done → ∃ t, exec .clear s = .next t ∧
      t = { s with phase := .idle, ptlen := 0, status := .ok, dec := t.dec } ∧
      (∀ a, t.byteAt .dec a = 0x00#8) ∧ isDone t = false ∧ statByte t = 0x00#8) ∧
    (s.phase ≠ .done → exec .clear s = .next s)

/-- R126, R136: the sequencer does nothing in `IDLE` and in `DONE`, and what the port shows there. -/
def Obligations.RestingPhasesDoNothing : Prop :=
  ∀ s : State,
    (exec .idle s = .next s ∧ exec .done s = .next s) ∧
    (s.phase = .idle → step { s with inputs := [] } = .next { s with inputs := [] } ∧
      statByte s = 0x00#8 ∧ ptlenRead s = 0 ∧ ∀ j, ptByte s j = 0x00#8) ∧
    (s.phase = .done → step { s with inputs := [] } = .next { s with inputs := [] } ∧
      (statByte s).toNat = 2 + 4 * s.status.bits.toNat ∧ ptlenRead s = s.ptlen)

/-! ### VALIDATE -/

/-- R128, R151: the request is accepted and the IV taken into `PREV`, or exactly the first failing check is raised, and
nothing else of the state changes. -/
def Obligations.ValidateChecksInOrder : Prop :=
  ∀ s : State,
    (s.klen ≠ 32 → exec .validate s = .next { s with errk := .err .invalidKeyLength, phase := .fail }) ∧
    (s.klen = 32 → s.ivlen ≠ 16 →
      exec .validate s = .next { s with errk := .err .invalidIvLength, phase := .fail }) ∧
    (s.klen = 32 → s.ivlen = 16 → (s.ctlen = 0 ∨ s.ctlen % 16 ≠ 0) →
      exec .validate s = .next { s with errk := .err .invalidCiphertextLength, phase := .fail }) ∧
    (s.klen = 32 → s.ivlen = 16 → s.ctlen ≠ 0 → s.ctlen % 16 = 0 → s.params.ctMax < s.ctlen →
      exec .validate s = .next { s with errk := .err .cipherEngineFailure, phase := .fail }) ∧
    (s.klen = 32 → s.ivlen = 16 → s.ctlen ≠ 0 → s.ctlen % 16 = 0 → s.ctlen ≤ s.params.ctMax →
      ∃ t, exec .validate s = .next t ∧ t = { s with prev := t.prev, phase := .kexp } ∧
        ∀ j, j < 16 → t.prev[j]! = s.byteAt .ivbuf j)

/-! ### Key expansion -/

/-- R90: the first step of `KEXP` copies the eight key words; each later one computes word `KI` by the body of R87 and ends
the phase after word 59. That the first step is the one that finds `KI = 0` is read from R36, R39 and R135 by inference (log
entry 12). -/
def Obligations.KexpStepComputesOneWord : Prop :=
  ∀ s : State, s.engineFault = false →
    (s.ki = 0#6 → ∃ t, exec .kexp s = .next t ∧ t = { s with w := t.w, ki := 8#6 } ∧
      (∀ i, i < 8 → t.w[i]! = wordOf (s.byteAt .keybuf (4 * i)) (s.byteAt .keybuf (4 * i + 1))
        (s.byteAt .keybuf (4 * i + 2)) (s.byteAt .keybuf (4 * i + 3))) ∧
      ∀ i, 8 ≤ i → i < 60 → t.w[i]! = s.w[i]!) ∧
    (∀ k, s.ki.toNat = k → 8 ≤ k → k < 60 → ∃ t, exec .kexp s = .next t ∧
      t = { s with
        w := t.w
        ki := BitVec.ofNat 6 (k + 1)
        phase := if k = 59 then .loadblk else s.phase
        blk := if k = 59 then 0 else s.blk } ∧
      (∀ i, i < 60 → i ≠ k → t.w[i]! = s.w[i]!) ∧
      (k % 8 = 0 → t.w[k]! = s.w[k - 8]! ^^^ (subWord (rotWord s.w[k - 1]!) ^^^ rconWord (k / 8))) ∧
      (k % 8 = 4 → t.w[k]! = s.w[k - 8]! ^^^ subWord s.w[k - 1]!) ∧
      (k % 8 ≠ 0 → k % 8 ≠ 4 → t.w[k]! = s.w[k - 8]! ^^^ s.w[k - 1]!))

/-- R86, R90: with `ENGINE_FAULT` low, the 53 steps of the `KEXP` phase leave `KeyExpansion(KEYBUF[0 .. 32))` in `W`, whatever
`W` held, and go to `LOADBLK` with `BLK = 0`. -/
def Obligations.KexpPhaseComputesKeyExpansion : Prop :=
  ∀ s : State, s.phase = .kexp → s.ki = 0#6 → s.inputs = [] → s.engineFault = false →
    ∃ t, runSteps 53 s = some t ∧
      t = { s with
        w := keyExpansion (Vector.ofFn fun j => s.byteAt .keybuf j.val)
        ki := 60#6
        phase := .loadblk
        blk := 0 }

/-- R87: `KeyExpansion(key)` is returned, and its 60 words are those of the recurrence. -/
def Obligations.KeyExpansionSatisfiesRecurrence : Prop :=
  ∀ (key : Key) (s : State), ∃ w : Schedule,
    exec (.keyExpansionFn key) s = .next { s with pureValue := some (.schedule w) } ∧
    (∀ i, i < 8 → w[i]! = wordOf key[4 * i]! key[4 * i + 1]! key[4 * i + 2]! key[4 * i + 3]!) ∧
    (∀ i, 8 ≤ i → i < 60 → i % 8 = 0 → w[i]! = w[i - 8]! ^^^ (subWord (rotWord w[i - 1]!) ^^^ rconWord (i / 8))) ∧
    (∀ i, 8 ≤ i → i < 60 → i % 8 = 4 → w[i]! = w[i - 8]! ^^^ subWord w[i - 1]!) ∧
    (∀ i, 8 ≤ i → i < 60 → i % 8 ≠ 0 → i % 8 ≠ 4 → w[i]! = w[i - 8]! ^^^ w[i - 1]!)

/-- R89, R93 (b): `RK[0]` is the first sixteen key bytes and `RK[1]` the last sixteen, unchanged. -/
def Obligations.FirstTwoRoundKeysAreTheKey : Prop :=
  ∀ (key : Key) (j : Nat), j < 16 →
    (roundKey (keyExpansion key) 0)[j]! = key[j]! ∧ (roundKey (keyExpansion key) 1)[j]! = key[16 + j]!

/-! ### The cipher and the chaining -/

/-- R106. -/
def Obligations.LoadblkTakesCiphertextBlock : Prop :=
  ∀ s : State, s.engineFault = false → 16 * s.blk + 16 ≤ s.params.ctMax →
    ∃ (t : State) (cb : Block), exec .loadblk s = .next t ∧
      t = { s with sreg := cb, cur := cb, rnd := 14#4, phase := .invcipher } ∧
      ∀ j, j < 16 → cb[j]! = s.byteAt .ctbuf (16 * s.blk + j)

/-- R100. -/
def Obligations.InvcipherStepIsOneRound : Prop :=
  ∀ s : State, s.engineFault = false →
    (s.rnd = 14#4 → exec .invcipher s =
      .next { s with sreg := addRoundKey s.sreg (roundKey s.w 14), rnd := 13#4 }) ∧
    (∀ k, s.rnd.toNat = k → 1 ≤ k → k ≤ 13 → exec .invcipher s =
      .next { s with
        sreg := invMixCols (addRoundKey (invSubBytes (invShiftRows s.sreg)) (roundKey s.w k))
        rnd := BitVec.ofNat 4 (k - 1) }) ∧
    (s.rnd = 0#4 → exec .invcipher s =
      .next { s with
        sreg := addRoundKey (invSubBytes (invShiftRows s.sreg)) (roundKey s.w 0)
        phase := .cbcxor })

/-- R99, R100: with `ENGINE_FAULT` low, the fifteen steps of the `INVCIPHER` phase leave `InvCipher(S, W)` in `S`. -/
def Obligations.InvcipherPhaseComputesInvCipher : Prop :=
  ∀ s : State, s.phase = .invcipher → s.rnd = 14#4 → s.inputs = [] → s.engineFault = false →
    runSteps 15 s = some { s with sreg := invCipher s.sreg s.w, rnd := 0#4, phase := .cbcxor }

/-- R107: the sixteen bytes stored at `16 * BLK`, every other byte of `DEC` as before, and the way to the next block or to the
validator. `DEC` in canonical form is part of the invariant. -/
def Obligations.CbcxorStoresDecryptedBlock : Prop :=
  ∀ s : State, s.engineFault = false → Memory.wf .dec s.dec → 16 * s.blk + 16 ≤ s.params.ctMax →
    ∃ t, exec .cbcxor s = .next t ∧
      t = { s with
        dec := t.dec
        prev := s.cur
        blk := if s.blk + 1 < s.ctlen / 16 then s.blk + 1 else s.blk
        phase := if s.blk + 1 < s.ctlen / 16 then .loadblk else .padread } ∧
      (∀ j, j < 16 → t.byteAt .dec (16 * s.blk + j) = s.sreg[j]! ^^^ s.prev[j]!) ∧
      (∀ a, a < 16 * s.blk ∨ 16 * s.blk + 16 ≤ a → t.byteAt .dec a = s.byteAt .dec a)

/-- R105 to R108: with `ENGINE_FAULT` low, the seventeen steps from `LOADBLK` decrypt block `BLK` into `DEC` and leave the
ciphertext block in `PREV`. -/
def Obligations.BlockTakesSeventeenSteps : Prop :=
  ∀ (s : State) (cb : Block), s.phase = .loadblk → s.inputs = [] → s.engineFault = false → Memory.wf .dec s.dec →
    16 * s.blk + 16 ≤ s.params.ctMax → (∀ j, j < 16 → cb[j]! = s.byteAt .ctbuf (16 * s.blk + j)) →
    ∃ t, runSteps 17 s = some t ∧
      t = { s with
        dec := t.dec
        sreg := invCipher cb s.w
        prev := cb
        cur := cb
        rnd := 0#4
        blk := if s.blk + 1 < s.ctlen / 16 then s.blk + 1 else s.blk
        phase := if s.blk + 1 < s.ctlen / 16 then .loadblk else .padread } ∧
      (∀ j, j < 16 → t.byteAt .dec (16 * s.blk + j) = (invCipher cb s.w)[j]! ^^^ s.prev[j]!) ∧
      (∀ a, a < 16 * s.blk ∨ 16 * s.blk + 16 ≤ a → t.byteAt .dec a = s.byteAt .dec a)

/-! ### The padding validator -/

/-- R115. -/
def Obligations.PadreadTakesLastByte : Prop :=
  ∀ s : State, 1 ≤ s.ctlen → s.ctlen ≤ s.params.ctMax →
    exec .padread s = .next { s with p := s.byteAt .dec (s.ctlen - 1), phase := .padrange }

/-- R116. -/
def Obligations.PadrangeChecksOneToSixteen : Prop :=
  ∀ s : State,
    (1 ≤ s.p.toNat → s.p.toNat ≤ 16 → exec .padrange s = .next { s with phase := .padlen }) ∧
    (s.p.toNat < 1 ∨ 16 < s.p.toNat →
      exec .padrange s = .next { s with errk := .err .invalidPadding, phase := .fail })

/-- R117. -/
def Obligations.PadlenChecksLength : Prop :=
  ∀ s : State,
    (s.p.toNat ≤ s.ctlen → exec .padlen s = .next { s with phase := .padfull }) ∧
    (s.ctlen < s.p.toNat → exec .padlen s = .next { s with errk := .err .invalidPadding, phase := .fail })

/-- R118: all sixteen positions are examined, and those at `j ≤ P` must hold `P`. -/
def Obligations.PadfullChecksEveryPaddingByte : Prop :=
  ∀ s : State, 16 ≤ s.ctlen → s.ctlen ≤ s.params.ctMax →
    ((∀ j, 1 ≤ j → j ≤ 16 → j ≤ s.p.toNat → s.byteAt .dec (s.ctlen - j) = s.p) →
      exec .padfull s = .next { s with phase := .trunc }) ∧
    ((∃ j, 1 ≤ j ∧ j ≤ 16 ∧ j ≤ s.p.toNat ∧ s.byteAt .dec (s.ctlen - j) ≠ s.p) →
      exec .padfull s = .next { s with errk := .err .invalidPadding, phase := .fail })

/-- R119. -/
def Obligations.TruncSetsPlaintextLength : Prop :=
  ∀ s : State, s.p.toNat ≤ s.ctlen →
    exec .trunc s = .next { s with ptlen := s.ctlen - s.p.toNat, phase := .wipe }

/-! ### Errors, wipe, reset -/

/-- R134: what a raise does and what `FAIL` does. -/
def Obligations.FailClearsPlaintextLength : Prop :=
  ∀ s : State,
    (∀ k, raise k s = { s with errk := .err k, phase := .fail }) ∧
    exec .fail s = .next { s with ptlen := 0, phase := .wipe }

/-- R135: what the wipe zeroes, what it keeps, and the flags it leaves. `KEYBUF` and `IVBUF` in canonical form are part of the
invariant. -/
def Obligations.WipeZeroesSecrets : Prop :=
  ∀ s : State, Memory.wf .keybuf s.keybuf → Memory.wf .ivbuf s.ivbuf →
    ∃ t, exec .wipe s = .next t ∧
      t = { s with
        w := Vector.replicate 60 0#32
        sreg := Vector.replicate 16 0#8
        prev := Vector.replicate 16 0#8
        cur := Vector.replicate 16 0#8
        p := 0#8
        blk := 0
        rnd := 0#4
        ki := 0#6
        keybuf := t.keybuf
        ivbuf := t.ivbuf
        dec := t.dec
        status := s.errk
        errk := .ok
        phase := .done } ∧
      (∀ a, a < 32 → t.byteAt .keybuf a = 0x00#8) ∧
      (∀ a, a < 16 → t.byteAt .ivbuf a = 0x00#8) ∧
      (s.errk ≠ .ok → ∀ a, t.byteAt .dec a = 0x00#8) ∧
      (s.errk = .ok → ∀ a, t.byteAt .dec a = if a < s.ptlen then s.byteAt .dec a else 0x00#8) ∧
      isBusy t = false ∧ isDone t = true

/-- R138: a sampled step with `ENGINE_FAULT` at 1 raises `CipherEngineFailure` instead of its normal effect; in every other phase
the input changes nothing of what the operation does. R8 (4): the environment's own action sets the level and changes nothing
else, in any phase; that the level is held in the state until the next such action, and that the action is an event of the
queue, is the model's choice (log entries 5 and 10). -/
def Obligations.EngineFaultSampledInCryptographicPhases : Prop :=
  (∀ (s : State) (i : Instr), s.engineFault = true →
    (i = .kexp ∨ i = .loadblk ∨ i = .invcipher ∨ i = .cbcxor) →
    exec i s = .next { s with errk := .err .cipherEngineFailure, phase := .fail }) ∧
  (∀ (s t : State) (i : Instr) (level : Bool),
    (i = .idle ∨ i = .validate ∨ i = .padread ∨ i = .padrange ∨ i = .padlen ∨ i = .padfull ∨ i = .trunc ∨
      i = .fail ∨ i = .wipe ∨ i = .done) →
    exec i s = .next t → exec i { s with engineFault := level } = .next { t with engineFault := level }) ∧
  (∀ (s : State) (rest : List Event) (level : Bool), s.inputs = .engineFault level :: rest →
    step s = .next { s with inputs := rest, engineFault := level })

/-- R153, R149: from `FAIL`, two steps end the request with the kind in `STATUS` and nothing else: no plaintext byte is
readable, `DEC`, the key material and the datapath are zero, and the host's lengths and ciphertext are as they were. -/
def Obligations.ErrorReportsOnlyItsKind : Prop :=
  ∀ (s : State) (k : ErrorKind), Inv s → s.phase = .fail → s.errk = .err k → s.inputs = [] →
    ∃ t, runSteps 2 s = some t ∧ t.phase = .done ∧ (statByte t).toNat = 2 + 4 * (kindCode k).toNat ∧
      ptlenRead t = 0 ∧ (∀ j, ptByte t j = 0x00#8) ∧ (∀ a, t.byteAt .dec a = 0x00#8) ∧
      (∀ a, t.byteAt .keybuf a = 0x00#8) ∧ (∀ a, t.byteAt .ivbuf a = 0x00#8) ∧ Quiet t ∧ t.errk = .ok ∧
      t.klen = s.klen ∧ t.ivlen = s.ivlen ∧ t.ctlen = s.ctlen ∧ t.ctbuf = s.ctbuf

/-- R132: a request that fails a precondition or the capacity check does no cipher work: the first of its three steps leaves
`W`, `S`, `PREV`, `CUR`, `P` and `DEC` as they were, and after the third the port is in `DONE` with the key and the IV zeroed. -/
def Obligations.RejectedRequestDoesNoCipherWork : Prop :=
  ∀ s : State, Inv s → s.phase = .validate → s.inputs = [] →
    (s.klen ≠ 32 ∨ s.ivlen ≠ 16 ∨ s.ctlen = 0 ∨ s.ctlen % 16 ≠ 0 ∨ s.params.ctMax < s.ctlen) →
    ∃ t u, runSteps 1 s = some t ∧ t = { s with errk := t.errk, phase := .fail } ∧ t.errk ≠ .ok ∧
      runSteps 3 s = some u ∧ u.phase = .done ∧ u.status = t.errk ∧
      (∀ a, u.byteAt .keybuf a = 0x00#8) ∧ (∀ a, u.byteAt .ivbuf a = 0x00#8)

/-- R161, R162, R39: what a pulse of `RESET` leaves, in any phase. `CTBUF` and `DEC` are not cleared; that they keep their
contents is the model's choice (log entry 4). -/
def Obligations.ResetLeavesResetState : Prop :=
  ∀ (s : State) (rest : List Event), s.inputs = .reset :: rest →
    ∃ t, step s = .next t ∧
      t = { State.reset with
        ctbuf := s.ctbuf
        dec := s.dec
        engineFault := s.engineFault
        params := s.params
        inputs := rest
        readData := s.readData
        pureValue := s.pureValue } ∧
      statByte t = 0x00#8 ∧ ptlenRead t = 0 ∧ ∀ j, ptByte t j = 0x00#8

/-- R39, R38: the machine after a completed and cleared request is the machine after reset, but for the lengths and the
ciphertext the host owns. -/
def Obligations.ClearedRequestLeavesResetState : Prop :=
  ∀ s : State, Inv s → s.phase = .wipe → s.inputs = [.tick, .writeReg 0 0x02] →
    runSteps 2 s = some { State.reset with
      klen := s.klen
      ivlen := s.ivlen
      ctlen := s.ctlen
      ctbuf := s.ctbuf
      engineFault := s.engineFault
      params := s.params
      readData := s.readData
      pureValue := s.pureValue }

/-! ### The round primitives and the functions -/

/-- R95. -/
def Obligations.AddrkXorsRoundKey : Prop :=
  ∀ (b k : Block) (s : State), ∃ out : Block,
    exec (.addrk b k) s = .next { s with pureValue := some (.block out) } ∧
    (∀ j, j < 16 → out[j]! = b[j]! ^^^ k[j]!) ∧ addRoundKey out k = b

/-- R96. -/
def Obligations.InvshiftrowsRotatesRowsRight : Prop :=
  ∀ (b : Block) (s : State), ∃ out : Block,
    exec (.invshiftrows b) s = .next { s with pureValue := some (.block out) } ∧
    (∀ r c, r < 4 → c < 4 → out[r + 4 * ((c + r) % 4)]! = b[r + 4 * c]!) ∧
    shiftRows out = b

/-- R97, R82: each byte is replaced by the one byte that `SBOX` maps to it; the substitution commutes with `INVSHIFTROWS`. -/
def Obligations.InvsubbytesInvertsSbox : Prop :=
  ∀ (b : Block) (s : State), ∃ out : Block,
    exec (.invsubbytes b) s = .next { s with pureValue := some (.block out) } ∧
    (∀ j, j < 16 → out[j]! = invSbox b[j]! ∧ sbox out[j]! = b[j]! ∧ ∀ y, sbox y = b[j]! → y = out[j]!) ∧
    invSubBytes (invShiftRows b) = invShiftRows (invSubBytes b)

/-- R98: the matrix, its linearity over XOR, the column of four equal bytes, and that it undoes the fixture's `MIXCOLS`. -/
def Obligations.InvmixcolsMultipliesColumns : Prop :=
  ∀ (b : Block) (s : State), ∃ out : Block,
    exec (.invmixcols b) s = .next { s with pureValue := some (.block out) } ∧
    (∀ c, c < 4 →
      out[4 * c]! = gfMul 0x0E#8 b[4 * c]! ^^^ gfMul 0x0B#8 b[4 * c + 1]! ^^^ gfMul 0x0D#8 b[4 * c + 2]! ^^^
        gfMul 0x09#8 b[4 * c + 3]! ∧
      out[4 * c + 1]! = gfMul 0x09#8 b[4 * c]! ^^^ gfMul 0x0E#8 b[4 * c + 1]! ^^^ gfMul 0x0B#8 b[4 * c + 2]! ^^^
        gfMul 0x0D#8 b[4 * c + 3]! ∧
      out[4 * c + 2]! = gfMul 0x0D#8 b[4 * c]! ^^^ gfMul 0x09#8 b[4 * c + 1]! ^^^ gfMul 0x0E#8 b[4 * c + 2]! ^^^
        gfMul 0x0B#8 b[4 * c + 3]! ∧
      out[4 * c + 3]! = gfMul 0x0B#8 b[4 * c]! ^^^ gfMul 0x0D#8 b[4 * c + 1]! ^^^ gfMul 0x09#8 b[4 * c + 2]! ^^^
        gfMul 0x0E#8 b[4 * c + 3]!) ∧
    (∀ d : Block, invMixCols (xorBlock b d) = xorBlock (invMixCols b) (invMixCols d)) ∧
    (∀ c v, c < 4 → (∀ i, i < 4 → b[4 * c + i]! = v) → ∀ i, i < 4 → out[4 * c + i]! = v) ∧
    mixCols out = b

/-- R99: fourteen rounds after the first `ADDRK`, thirteen of them with `INVMIXCOLS`, all fifteen round keys used once in
descending order; `st r` is the state after the round that uses `RK[r]`. -/
def Obligations.InvCipherFnRunsFourteenRounds : Prop :=
  ∀ (c : Block) (w : Schedule) (s : State), ∃ (out : Block) (st : Nat → Block),
    exec (.invCipherFn c w) s = .next { s with pureValue := some (.block out) } ∧
    st 14 = addRoundKey c (roundKey w 14) ∧
    (∀ r, 1 ≤ r → r ≤ 13 →
      st r = invMixCols (addRoundKey (invSubBytes (invShiftRows (st (r + 1)))) (roundKey w r))) ∧
    out = addRoundKey (invSubBytes (invShiftRows (st 1))) (roundKey w 0)

/-- R105: block 0 is XORed with the IV, block `i` with ciphertext block `i - 1`, and no byte is removed or added. -/
def Obligations.CbcDecryptFnChainsBlocks : Prop :=
  ∀ (w : Schedule) (iv : Block) (ct : List Byte) (s : State), 16 ≤ ct.length → ct.length % 16 = 0 →
    ∃ dec : List Byte, exec (.cbcDecryptFn w iv ct) s = .next { s with pureValue := some (.bytes dec) } ∧
      dec.length = ct.length ∧
      ∀ (i : Nat) (cb : Block), 16 * i < ct.length → (∀ j, j < 16 → cb[j]! = ct[16 * i + j]!) →
        ∀ j, j < 16 → dec[16 * i + j]! = (invCipher cb w)[j]! ^^^ (if i = 0 then iv[j]! else ct[16 * (i - 1) + j]!)

/-- R120: success exactly when the sequence ends in `p` bytes of value `p`, `1 ≤ p ≤ 16`. -/
def Obligations.UnpadFnIsStrict : Prop :=
  ∀ (dec : List Byte) (p : Byte) (s : State), 16 ≤ dec.length → p = dec[dec.length - 1]! →
    ∃ r : DecryptResult, exec (.unpadFn dec) s = .next { s with pureValue := some (.result r) } ∧
      ((1 ≤ p.toNat ∧ p.toNat ≤ 16 ∧ ∀ j, 1 ≤ j → j ≤ p.toNat → dec[dec.length - j]! = p) →
        r = .ok (dec.take (dec.length - p.toNat))) ∧
      ((p.toNat < 1 ∨ 16 < p.toNat ∨ ∃ j, 1 ≤ j ∧ j ≤ p.toNat ∧ dec[dec.length - j]! ≠ p) →
        r = .err .invalidPadding)

/-- R124: `Decrypt` is total, and its value is that of the rule's seven lines, on this instance's capacity. -/
def Obligations.DecryptFnFollowsContract : Prop :=
  ∀ (key iv ct : List Byte) (fault : Bool) (s : State), ∃ r : DecryptResult,
    exec (.decryptFn key iv ct fault) s = .next { s with pureValue := some (.result r) } ∧
    (key.length ≠ 32 → r = .err .invalidKeyLength) ∧
    (key.length = 32 → iv.length ≠ 16 → r = .err .invalidIvLength) ∧
    (key.length = 32 → iv.length = 16 → (ct.length = 0 ∨ ct.length % 16 ≠ 0) → r = .err .invalidCiphertextLength) ∧
    (key.length = 32 → iv.length = 16 → ct.length ≠ 0 → ct.length % 16 = 0 → s.params.ctMax < ct.length →
      r = .err .cipherEngineFailure) ∧
    (key.length = 32 → iv.length = 16 → ct.length ≠ 0 → ct.length % 16 = 0 → ct.length ≤ s.params.ctMax →
      fault = true → r = .err .cipherEngineFailure) ∧
    (∀ (k : Key) (v : Block), k.toList = key → v.toList = iv → ct.length ≠ 0 → ct.length % 16 = 0 →
      ct.length ≤ s.params.ctMax → fault = false → r = unpad (cbcDecrypt (keyExpansion k) v ct))

/-- U11, R43, R105, R120: where an operation stops, and under which name. The register values and offsets here are ones the spec says
are never reached; the last two are operands outside the domain of a function. That the model stops there is its own
choice (log entries 7 and 8). -/
def Obligations.OutOfReachValuesStop : Prop :=
  ∀ s : State,
    (s.engineFault = false → (1 ≤ s.ki.toNat ∧ s.ki.toNat ≤ 7 ∨ 60 ≤ s.ki.toNat) →
      exec .kexp s = .refused .unreachableState) ∧
    (s.engineFault = false → s.rnd = 15#4 → exec .invcipher s = .refused .unreachableState) ∧
    (s.ctlen < s.p.toNat → exec .trunc s = .refused .unreachableState) ∧
    (s.engineFault = false → s.params.ctMax < 16 * s.blk + 16 →
      exec .loadblk s = .fault .bufferBound ∧ exec .cbcxor s = .fault .bufferBound) ∧
    (s.ctlen = 0 ∨ s.params.ctMax < s.ctlen → exec .padread s = .fault .bufferBound) ∧
    (s.ctlen < 16 ∨ s.params.ctMax < s.ctlen → exec .padfull s = .fault .bufferBound) ∧
    (∀ (w : Schedule) (iv : Block) (ct : List Byte), ct.length < 16 ∨ ct.length % 16 ≠ 0 →
      exec (.cbcDecryptFn w iv ct) s = .refused .outsideDomain) ∧
    (∀ dec : List Byte, dec.length < 16 → exec (.unpadFn dec) s = .refused .outsideDomain)

/-! ### Laws of the cipher and the padding -/

/-- R102: the inverse cipher and the fixture's forward cipher undo each other, for every expanded key. -/
def Obligations.InvCipherInvertsCipher : Prop :=
  ∀ (x : Block) (w : Schedule), invCipher (cipher x w) w = x ∧ cipher (invCipher x w) w = x

/-- R113 (a), (b): `CbcDecrypt` keeps the length, undoes the fixture's CBC encryption, and is injective. -/
def Obligations.CbcDecryptInvertsCbcEncrypt : Prop :=
  ∀ (w : Schedule) (iv : Block) (m m' : List Byte), m.length % 16 = 0 → m'.length % 16 = 0 →
    (cbcDecrypt w iv m).length = m.length ∧ cbcDecrypt w iv (cbcEncrypt w iv m) = m ∧
    (cbcDecrypt w iv m = cbcDecrypt w iv m' → m = m')

/-- R113 (c). -/
def Obligations.CbcDecryptSplitsAtBlocks : Prop :=
  ∀ (w : Schedule) (iv last : Block) (ct1 ct2 : List Byte), 16 ≤ ct1.length → ct1.length % 16 = 0 →
    ct2.length % 16 = 0 → last.toList = ct1.drop (ct1.length - 16) →
    cbcDecrypt w iv (ct1 ++ ct2) = cbcDecrypt w iv ct1 ++ cbcDecrypt w last ct2

/-- R110 (a), (b): a change of the IV by `d` changes decrypted block 0 by exactly `d`; a change of ciphertext block `i` alone
changes decrypted block `i`, changes block `i + 1` by exactly the same XOR, and changes nothing else. -/
def Obligations.CiphertextChangesStayLocal : Prop :=
  ∀ (w : Schedule) (iv d : Block) (ct ct' : List Byte), ct.length % 16 = 0 → ct'.length = ct.length →
    (∀ a, a < ct.length → (cbcDecrypt w (xorBlock iv d) ct)[a]! =
      (cbcDecrypt w iv ct)[a]! ^^^ (if a < 16 then d[a]! else 0x00#8)) ∧
    (∀ i, (∀ a, a < ct.length → a / 16 ≠ i → ct'[a]! = ct[a]!) →
      (∀ a, a < ct.length → a / 16 ≠ i → a / 16 ≠ i + 1 → (cbcDecrypt w iv ct')[a]! = (cbcDecrypt w iv ct)[a]!) ∧
      (∀ a, a < ct.length → a / 16 = i + 1 →
        (cbcDecrypt w iv ct')[a]! = (cbcDecrypt w iv ct)[a]! ^^^ (ct[a - 16]! ^^^ ct'[a - 16]!)) ∧
      (ct' ≠ ct → ∃ a, a < ct.length ∧ a / 16 = i ∧ (cbcDecrypt w iv ct')[a]! ≠ (cbcDecrypt w iv ct)[a]!))

/-- R120 and the fixture: unpadding undoes padding. -/
def Obligations.UnpadInvertsPad : Prop := ∀ pt : List Byte, unpad (pad pt) = .ok pt

/-- R122: the verdict and the number of bytes removed depend on the last block alone. -/
def Obligations.LastBlockDecidesUnpad : Prop :=
  ∀ (front front' last : List Byte), last.length = 16 →
    (unpad (front ++ last) = .err .invalidPadding ∧ unpad (front' ++ last) = .err .invalidPadding) ∨
    ∃ n, n < 16 ∧ unpad (front ++ last) = .ok (front ++ last.take n) ∧
      unpad (front' ++ last) = .ok (front' ++ last.take n)

/-- R121: the strict policy against the policy this hardware does not have. -/
def Obligations.StrictPolicyAgainstLastByteOnly : Prop :=
  ∀ (dec : List Byte) (p : Byte), 16 ≤ dec.length → p = dec[dec.length - 1]! →
    (∀ pt, unpad dec = .ok pt → unpadLastByteOnly dec = .ok pt) ∧
    (p.toNat < 1 ∨ 16 < p.toNat → unpad dec = .err .invalidPadding ∧ unpadLastByteOnly dec = .err .invalidPadding) ∧
    (1 ≤ p.toNat → p.toNat ≤ 16 → (∃ j, 1 ≤ j ∧ j ≤ p.toNat ∧ dec[dec.length - j]! ≠ p) →
      unpad dec = .err .invalidPadding ∧ unpadLastByteOnly dec = .ok (dec.take (dec.length - p.toNat))) ∧
    (unpad dec ≠ unpadLastByteOnly dec →
      1 ≤ p.toNat ∧ p.toNat ≤ 16 ∧ ∃ j, 1 ≤ j ∧ j ≤ p.toNat ∧ dec[dec.length - j]! ≠ p)

/-- R124, R102, R113, R120: the round-trip law of D0 §8, for every key, IV and plaintext whose padded form fits the instance. -/
def Obligations.DecryptInvertsEncrypt : Prop :=
  ∀ (key : Key) (iv : Block) (pt : List Byte) (s : State), (pad pt).length ≤ s.params.ctMax →
    exec (.decryptFn key.toList iv.toList (encrypt key iv pt) false) s =
      .next { s with pureValue := some (.result (.ok pt)) }

/-! ### The host's port -/

/-- A host access outside the port is refused, in every phase, and by which name. R69 and R41 say that a model refuses an
unassigned register number and an offset outside a window. The rest is the model's choice: that a length which does not fit, of
which R170 only says that it cannot be written, and a `CTRL` value of 256 or more, which no rule mentions, are refused (log
entry 9); and that all of these are refused also while `BUSY = 1`, before the test that makes R52 ignore a write (log
entry 11). -/
def Obligations.AccessOutsidePortRefused : Prop :=
  ∀ (s : State) (e : Event) (rest : List Event), s.inputs = e :: rest → OutsidePort s.params e →
    (∃ r, step s = .refused r) ∧
    (∀ n v, e = .writeReg n v → step s = .refused (if 6 ≤ n then .unassignedRegister else .valueTooWide)) ∧
    (∀ n, e = .readReg n → step s = .refused .unassignedRegister) ∧
    (∀ w off v, e = .writeByte w off v → step s = .refused .outsideWindow) ∧
    (∀ w off, e = .readByte w off → step s = .refused .outsideWindow)

/-- R52, R127, R137: while `BUSY = 1` a host write of a request register, of a buffer or of `CTRL` changes nothing; only the access
leaves the queue. -/
def Obligations.BusyPortIgnoresWrites : Prop :=
  ∀ (s : State) (e : Event) (rest : List Event), isBusy s = true → s.inputs = e :: rest → ¬ OutsidePort s.params e →
    ((∃ n v, e = .writeReg n v) ∨ ∃ w off v, e = .writeByte w off v) →
    step s = .next { s with inputs := rest }

/-- R24, R26, R27, R28, R30, R50: at rest, a host write of a length register or of a buffer byte takes effect whole and changes nothing
else; `STAT`, `PTLEN` and `PT` ignore writes. The buffer in canonical form is part of the invariant. -/
def Obligations.RestingPortTakesWrites : Prop :=
  ∀ (s : State) (rest : List Event), isBusy s = false →
    (∀ v, v < 2 ^ s.params.lenW →
      (s.inputs = .writeReg 2 v :: rest → step s = .next { s with inputs := rest, klen := v }) ∧
      (s.inputs = .writeReg 3 v :: rest → step s = .next { s with inputs := rest, ivlen := v }) ∧
      (s.inputs = .writeReg 4 v :: rest → step s = .next { s with inputs := rest, ctlen := v })) ∧
    (∀ v, s.inputs = .writeReg 1 v :: rest ∨ s.inputs = .writeReg 5 v :: rest →
      step s = .next { s with inputs := rest }) ∧
    (∀ off v, off < 32 → Memory.wf .keybuf s.keybuf → s.inputs = .writeByte .keybuf off v :: rest →
      ∃ t, step s = .next t ∧ t = { s with inputs := rest, keybuf := t.keybuf } ∧
        ∀ a, t.byteAt .keybuf a = if a = off then v else s.byteAt .keybuf a) ∧
    (∀ off v, off < 16 → Memory.wf .ivbuf s.ivbuf → s.inputs = .writeByte .ivbuf off v :: rest →
      ∃ t, step s = .next t ∧ t = { s with inputs := rest, ivbuf := t.ivbuf } ∧
        ∀ a, t.byteAt .ivbuf a = if a = off then v else s.byteAt .ivbuf a) ∧
    (∀ off v, off < s.params.ctMax → Memory.wf .ctbuf s.ctbuf → s.inputs = .writeByte .ctbuf off v :: rest →
      ∃ t, step s = .next t ∧ t = { s with inputs := rest, ctbuf := t.ctbuf } ∧
        ∀ a, t.byteAt .ctbuf a = if a = off then v else s.byteAt .ctbuf a) ∧
    (∀ off v, off < s.params.ctMax → s.inputs = .writeByte .pt off v :: rest →
      step s = .next { s with inputs := rest })

/-- R140: what host reads answer while `BUSY = 1`. -/
def Obligations.BusyPortHidesTheRequest : Prop :=
  ∀ (s : State) (rest : List Event), isBusy s = true →
    (s.inputs = .readReg 1 :: rest → step s = .next { s with inputs := rest, readData := some (.reg 0x01) }) ∧
    (s.inputs = .readReg 5 :: rest → step s = .next { s with inputs := rest, readData := some (.reg 0) }) ∧
    (∀ j, j < s.params.ctMax → s.inputs = .readByte .pt j :: rest →
      step s = .next { s with inputs := rest, readData := some (.byte 0x00#8) }) ∧
    (∀ j, j < 32 → s.inputs = .readByte .keybuf j :: rest →
      step s = .next { s with inputs := rest, readData := some (.byte 0x00#8) }) ∧
    (∀ j, j < 16 → s.inputs = .readByte .ivbuf j :: rest →
      step s = .next { s with inputs := rest, readData := some (.byte 0x00#8) }) ∧
    (∀ j, j < s.params.ctMax → s.inputs = .readByte .ctbuf j :: rest →
      step s = .next { s with inputs := rest, readData := some (.byte (s.byteAt .ctbuf j)) })

/-- R51. -/
def Obligations.PlaintextWindowIsGated : Prop :=
  ∀ (s : State) (rest : List Event) (j : Nat), j < s.params.ctMax → s.inputs = .readByte .pt j :: rest →
    ((isDone s = true ∧ s.status = .ok ∧ j < s.ptlen) →
      step s = .next { s with inputs := rest, readData := some (.byte (s.byteAt .dec j)) }) ∧
    (¬ (isDone s = true ∧ s.status = .ok ∧ j < s.ptlen) →
      step s = .next { s with inputs := rest, readData := some (.byte 0x00#8) })

/-- R23, R62: the byte a read of `STAT` answers: 0x00 when idle, 0x01 when busy, and `0x02 + 4 * status` with `status` in 0 to 5
when done; no other value. -/
def Obligations.StatReadsLegalValue : Prop :=
  ∀ (s : State) (rest : List Event), s.inputs = .readReg 1 :: rest →
    ∃ v, step s = .next { s with inputs := rest, readData := some (.reg v) } ∧
      (s.phase = .idle → v = 0x00) ∧ (isBusy s = true → v = 0x01) ∧
      (s.phase = .done → v = 0x02 + 4 * s.status.bits.toNat ∧ s.status.bits.toNat ≤ 5) ∧
      (v = 0x00 ∨ v = 0x01 ∨ v = 0x02 ∨ v = 0x06 ∨ v = 0x0A ∨ v = 0x0E ∨ v = 0x12 ∨ v = 0x16)

/-- R22, R24, R25, R26, R27, R28, R50, R136: in every phase, a host read inside the port changes nothing but the recorded
answer; what `CTRL`, the length registers, `PTLEN` (the register in `DONE`, 0 elsewhere) and the request buffers answer. -/
def Obligations.HostReadsChangeNothing : Prop :=
  ∀ (s : State) (e : Event) (rest : List Event), s.inputs = e :: rest → ¬ OutsidePort s.params e →
    ((∃ n, e = .readReg n) ∨ ∃ w off, e = .readByte w off) →
    ∃ d : ReadData, step s = .next { s with inputs := rest, readData := some d } ∧
      (e = .readReg 0 → d = .reg 0) ∧ (e = .readReg 2 → d = .reg s.klen) ∧ (e = .readReg 3 → d = .reg s.ivlen) ∧
      (e = .readReg 4 → d = .reg s.ctlen) ∧ (e = .readReg 5 → d = .reg (if isDone s then s.ptlen else 0)) ∧
      (∀ off, e = .readByte .keybuf off ∨ e = .readByte .ivbuf off → d = .byte 0x00#8) ∧
      (∀ off, e = .readByte .ctbuf off → d = .byte (s.byteAt .ctbuf off))

/-! ### Whole-machine statements -/

/-- The invariant holds right after reset. -/
def Obligations.ResetMeetsInvariant : Prop := Inv State.reset

/-- Every step, whichever agent takes it, keeps the invariant. -/
def Obligations.EveryStepKeepsInvariant : Prop :=
  ∀ s t : State, Inv s → step s = .next t → Inv t

/-- R43, R155, R125: under the invariant every step completes, unless the host's next access lies outside the port. -/
def Obligations.EveryStepInsidePortCompletes : Prop :=
  ∀ s : State, Inv s → (∀ e rest, s.inputs = e :: rest → ¬ OutsidePort s.params e) → ∃ t, step s = .next t

/-- R141: the port agrees with `Decrypt`. From `IDLE` or `DONE`, the host loads the three lengths and the bytes and writes `START`;
after `60 + 17 n` further steps the port is in `DONE` and its response is the function's result. The level of `ENGINE_FAULT`
is constant during the request. -/
def Obligations.PortAgreesWithDecrypt : Prop :=
  ∀ (s : State) (key iv ct : List Byte) (r : DecryptResult), Inv s → (s.phase = .idle ∨ s.phase = .done) →
    key.length < 2 ^ s.params.lenW → iv.length < 2 ^ s.params.lenW → ct.length < 2 ^ s.params.lenW →
    s.inputs = requestEvents s.params key iv ct → r = decrypt s.params.ctMax key iv ct s.engineFault →
    ∃ t, runSteps ((requestEvents s.params key iv ct).length + (60 + 17 * (ct.length / 16))) s = some t ∧
      t.phase = .done ∧ response t = r ∧
      (∀ pt, r = .ok pt → t.status = .ok ∧ ptlenRead t = pt.length ∧ ∀ j, j < pt.length → ptByte t j = pt[j]!) ∧
      (∀ k, r = .err k → t.status = .err k ∧ ptlenRead t = 0 ∧ ∀ j, ptByte t j = 0x00#8) ∧
      Quiet t ∧ (∀ a, t.byteAt .keybuf a = 0x00#8) ∧ (∀ a, t.byteAt .ivbuf a = 0x00#8) ∧
      (∀ a, t.ptlen ≤ a → t.byteAt .dec a = 0x00#8)

/-- R20, R125: equal requests give equal responses, whatever requests came before: what the host can read of the response is a
function of the lengths, the bytes and the level of `ENGINE_FAULT`. -/
def Obligations.EqualRequestsGiveEqualResponses : Prop :=
  ∀ s s' : State, Inv s → Inv s' → (s.phase = .idle ∨ s.phase = .done) → (s'.phase = .idle ∨ s'.phase = .done) →
    s.params = s'.params → s.engineFault = s'.engineFault →
    s.klen = s'.klen → s.ivlen = s'.ivlen → s.ctlen = s'.ctlen →
    (∀ j, j < 32 → s.byteAt .keybuf j = s'.byteAt .keybuf j) →
    (∀ j, j < 16 → s.byteAt .ivbuf j = s'.byteAt .ivbuf j) →
    (∀ j, j < s.ctlen → s.byteAt .ctbuf j = s'.byteAt .ctbuf j) →
    s.inputs = [.writeReg 0 0x01] → s'.inputs = [.writeReg 0 0x01] →
    ∃ t t', runSteps (1 + (60 + 17 * (s.ctlen / 16))) s = some t ∧
      runSteps (1 + (60 + 17 * (s.ctlen / 16))) s' = some t' ∧ t.phase = .done ∧ t'.phase = .done ∧
      statByte t = statByte t' ∧ ptlenRead t = ptlenRead t' ∧ ∀ j, ptByte t j = ptByte t' j

/-- R138, R150: whatever the environment does with `ENGINE_FAULT` and whenever it does it, a request that passed its checks ends, when it
ends, either with the fault-free result or with `CipherEngineFailure`, and with the latter only if the input was ever 1; the
datapath and the key material are zero, and after a failure no byte is readable. -/
def Obligations.AnyEngineFaultSequenceIsSafe : Prop :=
  ∀ (s t : State) (n : Nat) (r : DecryptResult), Inv s → s.phase = .validate → Accepted s → EngineTape s.inputs →
    r = decrypt s.params.ctMax (keyOperand s).toList (ivOperand s).toList (ctOperand s) false →
    runSteps n s = some t → t.phase = .done →
    (response t = r ∨
      (t.status = .err .cipherEngineFailure ∧ (s.engineFault = true ∨ Event.engineFault true ∈ s.inputs))) ∧
    Quiet t ∧ (∀ a, t.byteAt .keybuf a = 0x00#8) ∧ (∀ a, t.byteAt .ivbuf a = 0x00#8) ∧
    (t.status ≠ .ok → ∀ j, ptByte t j = 0x00#8)
end

