-- ==== Sys2Proof/Laws/Gf.lean ====
section
/-! SUPPORT. The field laws a proof about the cipher needs, and the tables of spec/40_gf256_and_tables.md R81 and R82 checked
against the algebraic definitions of R80 and R82. -/

namespace Sys2Proof.Machine

-- Some of these theorems are computations in the kernel: one at a time keeps the memory and the number of threads small.
set_option Elab.async false

/-- Entry `0xhl` of a table given by its rows: row `h`, column `l`, the first column in the most significant byte. -/
def tableEntry (rows : List Nat) (a : Nat) : Nat := (rows.getD (a / 16) 0 >>> (8 * (15 - a % 16))) % 256

/-- The table of `SBOX` (R81), a number a row. -/
def sboxTable : List Nat :=
  [0x637c777bf26b6fc53001672bfed7ab76,
   0xca82c97dfa5947f0add4a2af9ca472c0,
   0xb7fd9326363ff7cc34a5e5f171d83115,
   0x04c723c31896059a071280e2eb27b275,
   0x09832c1a1b6e5aa0523bd6b329e32f84,
   0x53d100ed20fcb15b6acbbe394a4c58cf,
   0xd0efaafb434d338545f9027f503c9fa8,
   0x51a3408f929d38f5bcb6da2110fff3d2,
   0xcd0c13ec5f974417c4a77e3d645d1973,
   0x60814fdc222a908846eeb814de5e0bdb,
   0xe0323a0a4906245cc2d3ac629195e479,
   0xe7c8376d8dd54ea96c56f4ea657aae08,
   0xba78252e1ca6b4c6e8dd741f4bbd8b8a,
   0x703eb5664803f60e613557b986c11d9e,
   0xe1f8981169d98e949b1e87e9ce5528df,
   0x8ca1890dbfe6426841992d0fb054bb16]

/-- The table of `INVSBOX` (R82), a number a row. -/
def invSboxTable : List Nat :=
  [0x52096ad53036a538bf40a39e81f3d7fb,
   0x7ce339829b2fff87348e4344c4dee9cb,
   0x547b9432a6c2233dee4c950b42fac34e,
   0x082ea16628d924b2765ba2496d8bd125,
   0x72f8f66486689816d4a45ccc5d65b692,
   0x6c704850fdedb9da5e154657a78d9d84,
   0x90d8ab008cbcd30af7e45805b8b34506,
   0xd02c1e8fca3f0f02c1afbd0301138a6b,
   0x3a9111414f67dcea97f2cfcef0b4e673,
   0x96ac7422e7ad3585e2f937e81c75df6e,
   0x47f11a711d29c5896fb7620eaa18be1b,
   0xfc563e4bc6d279209adbc0fe78cd5af4,
   0x1fdda8338807c731b11210592780ec5f,
   0x60517fa919b54a0d2de57a9f93c99cef,
   0xa0e03b4dae2af5b0c8ebbb3c83539961,
   0x172b047eba77d626e169146355210c7d]

/-- R76: `xtime` distributes over XOR. -/
theorem xtime_xor (a b : Byte) : xtime (a ^^^ b) = xtime a ^^^ xtime b := by
  unfold xtime
  rw [BitVec.getLsbD_xor, BitVec.shiftLeft_xor_distrib]
  generalize a <<< 1 = x
  generalize b <<< 1 = y
  generalize (0x1B#8 : Byte) = z
  have hz : z ^^^ z = 0#8 := BitVec.xor_self
  cases a.getLsbD 7 <;> cases b.getLsbD 7
  · rfl
  · exact BitVec.xor_assoc x y z
  · change x ^^^ y ^^^ z = (x ^^^ z) ^^^ y
    rw [BitVec.xor_assoc, BitVec.xor_comm y z, ← BitVec.xor_assoc]
  · change x ^^^ y = (x ^^^ z) ^^^ (y ^^^ z)
    rw [BitVec.xor_comm y z, BitVec.xor_assoc, ← BitVec.xor_assoc z z y, hz, BitVec.zero_xor]

/-- Four terms regrouped. -/
theorem xor_regroup (a b c d : Byte) : (a ^^^ b) ^^^ (c ^^^ d) = (a ^^^ c) ^^^ (b ^^^ d) := by
  rw [BitVec.xor_assoc, BitVec.xor_assoc, ← BitVec.xor_assoc b c d, BitVec.xor_comm b c, BitVec.xor_assoc c b d]

theorem gfMulBits_xor_right (a b c : Byte) (n : Nat) :
    gfMulBits a (b ^^^ c) n = gfMulBits a b n ^^^ gfMulBits a c n := by
  induction n with
  | zero => simp [gfMulBits]
  | succ n ih =>
    simp only [gfMulBits, ih]
    rw [xor_regroup]
    congr 1
    rw [BitVec.getLsbD_xor]
    cases b.getLsbD n <;> cases c.getLsbD n <;> simp

/-- R77: multiplication distributes over XOR on the right. -/
theorem gfMul_xor_right (a b c : Byte) : gfMul a (b ^^^ c) = gfMul a b ^^^ gfMul a c := gfMulBits_xor_right a b c 8

/-! ### Multiplication by doubling, which the kernel evaluates quickly -/

@[simp] theorem xtime_zero : xtime 0x00#8 = 0x00#8 := by decide

theorem xtime_ite (p : Prop) [Decidable p] (a : Byte) :
    xtime (if p then a else 0x00#8) = if p then xtime a else 0x00#8 := by
  split <;> simp

/-- The bits `b_7`, ..., `b_(8-n)` of `b` worked in from the top: one `xtime` a bit. -/
def gfHorner (a b : Byte) : Nat → Byte
  | 0 => 0x00#8
  | n + 1 => xtime (gfHorner a b n) ^^^ (if b.getLsbD (7 - n) then a else 0x00#8)

/-- R77: shift-and-add from the top bit gives the same product. -/
theorem gfMul_eq_gfHorner (a b : Byte) : gfMul a b = gfHorner a b 8 := by
  simp only [gfMul, gfMulBits, gfHorner, xtimePow, xtime_xor, xtime_ite, xtime_zero, BitVec.zero_xor, Nat.reduceSub]
  ac_rfl

/-- Two additive functions that agree on the eight powers of two agree. -/
theorem additive_ext {f g : Byte → Byte} (hf : ∀ a b, f (a ^^^ b) = f a ^^^ f b) (hg : ∀ a b, g (a ^^^ b) = g a ^^^ g b)
    (h : ∀ i : Fin 8, f (1#8 <<< i.val) = g (1#8 <<< i.val)) (a : Byte) : f a = g a := by
  have zero {k : Byte → Byte} (hk : ∀ a b, k (a ^^^ b) = k a ^^^ k b) : k 0x00#8 = 0x00#8 := by
    have := hk 0x00#8 0x00#8
    rw [BitVec.xor_self, BitVec.xor_self] at this
    exact this
  have bit (i : Nat) (hi : i < 8) : f (if a.getLsbD i then 1#8 <<< i else 0x00#8) =
      g (if a.getLsbD i then 1#8 <<< i else 0x00#8) := by
    split
    · exact h ⟨i, hi⟩
    · rw [zero hf, zero hg]
  have split8 : ∀ b : Byte, b =
      (if b.getLsbD 0 then 1#8 <<< 0 else 0x00#8) ^^^ (if b.getLsbD 1 then 1#8 <<< 1 else 0x00#8) ^^^
      (if b.getLsbD 2 then 1#8 <<< 2 else 0x00#8) ^^^ (if b.getLsbD 3 then 1#8 <<< 3 else 0x00#8) ^^^
      (if b.getLsbD 4 then 1#8 <<< 4 else 0x00#8) ^^^ (if b.getLsbD 5 then 1#8 <<< 5 else 0x00#8) ^^^
      (if b.getLsbD 6 then 1#8 <<< 6 else 0x00#8) ^^^ (if b.getLsbD 7 then 1#8 <<< 7 else 0x00#8) := by decide +kernel
  rw [split8 a]
  simp only [hf, hg]
  rw [bit 0 (by decide), bit 1 (by decide), bit 2 (by decide), bit 3 (by decide), bit 4 (by decide), bit 5 (by decide),
    bit 6 (by decide), bit 7 (by decide)]

/-- R78: the four constant multipliers in terms of `xtime`. -/
theorem gfMul_09 (a : Byte) : gfMul 0x09#8 a = xtime (xtime (xtime a)) ^^^ a :=
  additive_ext (g := fun x => xtime (xtime (xtime x)) ^^^ x) (gfMul_xor_right _) (fun x y => by simp only [xtime_xor]; ac_rfl)
    (by decide +kernel) a
theorem gfMul_0B (a : Byte) : gfMul 0x0B#8 a = xtime (xtime (xtime a)) ^^^ xtime a ^^^ a :=
  additive_ext (g := fun x => xtime (xtime (xtime x)) ^^^ xtime x ^^^ x) (gfMul_xor_right _) (fun x y => by simp only [xtime_xor]; ac_rfl)
    (by decide +kernel) a
theorem gfMul_0D (a : Byte) : gfMul 0x0D#8 a = xtime (xtime (xtime a)) ^^^ xtime (xtime a) ^^^ a :=
  additive_ext (g := fun x => xtime (xtime (xtime x)) ^^^ xtime (xtime x) ^^^ x) (gfMul_xor_right _) (fun x y => by simp only [xtime_xor]; ac_rfl)
    (by decide +kernel) a
theorem gfMul_0E (a : Byte) : gfMul 0x0E#8 a = xtime (xtime (xtime a)) ^^^ xtime (xtime a) ^^^ xtime a :=
  additive_ext (g := fun x => xtime (xtime (xtime x)) ^^^ xtime (xtime x) ^^^ xtime x) (gfMul_xor_right _) (fun x y => by simp only [xtime_xor]; ac_rfl)
    (by decide +kernel) a

/-! ### The tables -/

/-! The same arithmetic on naturals, on which the kernel computes directly. -/

def xtimeNat (n : Nat) : Nat := Nat.xor (Nat.land (Nat.shiftLeft n 1) 255) (Nat.mul (Nat.shiftRight n 7) 27)

def gfHornerNat (a b : Nat) : Nat → Nat
  | 0 => 0
  | n + 1 => Nat.xor (xtimeNat (gfHornerNat a b n)) (Nat.mul (Nat.land (Nat.shiftRight b (Nat.sub 7 n)) 1) a)

def gfInvNat (a : Nat) : Nat :=
  let a2 := gfHornerNat a a 8
  let a4 := gfHornerNat a2 a2 8
  let a8 := gfHornerNat a4 a4 8
  let a16 := gfHornerNat a8 a8 8
  let a32 := gfHornerNat a16 a16 8
  let a64 := gfHornerNat a32 a32 8
  let a128 := gfHornerNat a64 a64 8
  gfHornerNat a2 (gfHornerNat a4 (gfHornerNat a8 (gfHornerNat a16 (gfHornerNat a32 (gfHornerNat a64 a128 8) 8) 8) 8) 8) 8

theorem xtime_toNat : ∀ b : Byte, (xtime b).toNat = xtimeNat b.toNat := by decide +kernel

theorem selected_toNat (a b : Byte) (k : Nat) :
    (if b.getLsbD k then a else 0x00#8).toNat = Nat.mul (Nat.land (Nat.shiftRight b.toNat k) 1) a.toNat := by
  have h : Nat.land (Nat.shiftRight b.toNat k) 1 = (b.getLsbD k).toNat := by
    show (b.toNat >>> k) &&& 1 = (b.toNat.testBit k).toNat
    rw [Nat.toNat_testBit, Nat.and_one_is_mod, Nat.shiftRight_eq_div_pow]
  rw [h]
  cases b.getLsbD k
  · exact (Nat.zero_mul _).symm
  · exact (Nat.one_mul _).symm

theorem gfHorner_toNat (a b : Byte) (n : Nat) : (gfHorner a b n).toNat = gfHornerNat a.toNat b.toNat n := by
  induction n with
  | zero => rfl
  | succ n ih =>
    rw [gfHorner, BitVec.toNat_xor, xtime_toNat, ih, selected_toNat]
    rfl

theorem gfInv_toNat (a : Byte) : (gfInv a).toNat = gfInvNat a.toNat := by
  simp only [gfInv, gfInvNat, gfMul_eq_gfHorner, gfHorner_toNat]

/-- The rotation of a byte to the left. -/
def rotNat (n k : Nat) : Nat := Nat.lor (Nat.mod (Nat.shiftLeft n k) 256) (Nat.shiftRight n (8 - k))

theorem rotateLeft_toNat (a : Byte) (k : Nat) (hk : k < 8) : (a.rotateLeft k).toNat = rotNat a.toNat k := by
  rw [BitVec.rotateLeft_eq_rotateLeftAux_of_lt hk, BitVec.rotateLeftAux, BitVec.toNat_or, BitVec.toNat_shiftLeft,
    BitVec.toNat_ushiftRight]
  rfl

/-- R81: the table is the function of R80. -/
theorem sbox_eq_table (a : Byte) : sbox a = BitVec.ofNat 8 (tableEntry sboxTable a.toNat) := by
  have h : ∀ n : Fin 256,
      (let y := gfInvNat n.val
       Nat.beq (Nat.xor (Nat.xor (Nat.xor (Nat.xor (Nat.xor y (rotNat y 1)) (rotNat y 2)) (rotNat y 3)) (rotNat y 4)) 0x63)
         (tableEntry sboxTable n.val)) = true := by decide +kernel
  have e := Nat.eq_of_beq_eq_true (h ⟨a.toNat, a.isLt⟩)
  have t : (sbox a).toNat = tableEntry sboxTable a.toNat := by
    rw [← e]
    simp only [sbox, sboxAffine, BitVec.toNat_xor, gfInv_toNat, rotateLeft_toNat _ 1 (by decide),
      rotateLeft_toNat _ 2 (by decide), rotateLeft_toNat _ 3 (by decide), rotateLeft_toNat _ 4 (by decide)]
    rfl
  rw [← t, BitVec.ofNat_toNat, BitVec.setWidth_eq]

/-- R82: the table is the function given directly. -/
theorem invSbox_eq_table (a : Byte) : invSbox a = BitVec.ofNat 8 (tableEntry invSboxTable a.toNat) := by
  have h : ∀ n : Fin 256,
      Nat.beq (gfInvNat (Nat.xor (Nat.xor (Nat.xor (rotNat n.val 1) (rotNat n.val 3)) (rotNat n.val 6)) 0x05))
        (tableEntry invSboxTable n.val) = true := by decide +kernel
  have e := Nat.eq_of_beq_eq_true (h ⟨a.toNat, a.isLt⟩)
  have t : (invSbox a).toNat = tableEntry invSboxTable a.toNat := by
    rw [← e]
    simp only [invSbox, invSboxAffine, BitVec.toNat_xor, gfInv_toNat, rotateLeft_toNat _ 1 (by decide),
      rotateLeft_toNat _ 3 (by decide), rotateLeft_toNat _ 6 (by decide)]
    rfl
  rw [← t, BitVec.ofNat_toNat, BitVec.setWidth_eq]

theorem tableEntry_toNat (rows : List Nat) (a : Nat) : (BitVec.ofNat 8 (tableEntry rows a)).toNat = tableEntry rows a := by
  simp [tableEntry]

/-- R82: `INVSBOX` undoes `SBOX`. -/
theorem invSbox_sbox (a : Byte) : invSbox (sbox a) = a := by
  have h : ∀ n : Fin 256, tableEntry invSboxTable (tableEntry sboxTable n.val) = n.val := by decide +kernel
  rw [sbox_eq_table, invSbox_eq_table, tableEntry_toNat, h ⟨a.toNat, a.isLt⟩, BitVec.ofNat_toNat, BitVec.setWidth_eq]

/-- R82: `SBOX` undoes `INVSBOX`. -/
theorem sbox_invSbox (a : Byte) : sbox (invSbox a) = a := by
  have h : ∀ n : Fin 256, tableEntry sboxTable (tableEntry invSboxTable n.val) = n.val := by decide +kernel
  rw [invSbox_eq_table, sbox_eq_table, tableEntry_toNat, h ⟨a.toNat, a.isLt⟩, BitVec.ofNat_toNat, BitVec.setWidth_eq]

end Sys2Proof.Machine
end

