-- ==== Sys2Proof/Laws/Memory.lean ====
section
/-! SUPPORT. The laws of the buffers: what a byte reads as after a store, and that every operation on a buffer keeps its
contents in canonical form and within its size. -/

namespace Sys2Proof.Machine

/-- Offsets strictly rising: the first half of `Memory.wf`. -/
abbrev Memory.rising (m : Memory) : Prop := m.Pairwise (fun x y => x.1 < y.1)

theorem memLookup_none_of_lt {m : Memory} {a : Nat} (h : ∀ c ∈ m, a < c.1) : memLookup m a = none := by
  induction m with
  | nil => rfl
  | cons c m ih =>
    have hc := h c (by simp)
    simp only [memLookup]
    rw [if_neg (by omega)]
    exact ih fun d hd => h d (by simp [hd])

theorem mem_of_memLookup {m : Memory} {a : Nat} {v : Byte} (h : memLookup m a = some v) : (a, v) ∈ m := by
  induction m with
  | nil => simp [memLookup] at h
  | cons c m ih =>
    simp only [memLookup] at h
    split at h
    · obtain ⟨k, x⟩ := c
      simp_all
    · exact List.mem_cons_of_mem _ (ih h)

theorem memLookup_of_mem {m : Memory} (hm : m.rising) {a : Nat} {v : Byte} (h : (a, v) ∈ m) :
    memLookup m a = some v := by
  induction m with
  | nil => simp at h
  | cons c m ih =>
    rw [Memory.rising, List.pairwise_cons] at hm
    rcases List.mem_cons.1 h with rfl | h'
    · simp [memLookup]
    · have := hm.1 _ h'
      simp only [memLookup]
      rw [if_neg (by simp only at this; omega)]
      exact ih hm.2 h'

/-! ### Erasing -/

theorem mem_memErase {m : Memory} {a : Nat} {c : Host.Cell} (h : c ∈ memErase m a) : c ∈ m := by
  induction m with
  | nil => simp [memErase] at h
  | cons d m ih =>
    simp only [memErase] at h
    split at h
    · exact List.mem_cons_of_mem _ h
    · rcases List.mem_cons.1 h with rfl | h'
      · simp
      · exact List.mem_cons_of_mem _ (ih h')

theorem memErase_rising {m : Memory} (hm : m.rising) (a : Nat) : (memErase m a).rising := by
  induction m with
  | nil => simp [memErase, Memory.rising]
  | cons d m ih =>
    rw [Memory.rising, List.pairwise_cons] at hm
    simp only [memErase]
    split
    · exact hm.2
    · exact List.pairwise_cons.2 ⟨fun c hc => hm.1 c (mem_memErase hc), ih hm.2⟩

theorem memLookup_memErase {m : Memory} (hm : m.rising) (a x : Nat) :
    memLookup (memErase m a) x = if x = a then none else memLookup m x := by
  induction m with
  | nil => simp [memErase, memLookup]
  | cons d m ih =>
    rw [Memory.rising, List.pairwise_cons] at hm
    simp only [memErase]
    split
    · rename_i h
      by_cases hx : x = a
      · rw [if_pos hx]
        exact memLookup_none_of_lt fun c hc => by have := hm.1 c hc; omega
      · simp only [memLookup]
        rw [if_neg hx, if_neg (by omega)]
    · rename_i h
      simp only [memLookup, ih hm.2]
      by_cases hx : x = d.1
      · rw [if_pos hx, if_pos hx, if_neg (by omega)]
      · rw [if_neg hx, if_neg hx]

/-! ### Inserting -/

theorem mem_memInsert {m : Memory} {a : Nat} {b : Byte} {c : Host.Cell} (h : c ∈ memInsert m a b) :
    c = (a, b) ∨ c ∈ m := by
  induction m with
  | nil => simpa [memInsert] using h
  | cons d m ih =>
    simp only [memInsert] at h
    split at h
    · simpa using h
    · split at h
      · rcases List.mem_cons.1 h with h | h
        · exact .inl h
        · exact .inr (List.mem_cons_of_mem _ h)
      · rcases List.mem_cons.1 h with h | h
        · exact .inr (by simp [h])
        · rcases ih h with h | h
          · exact .inl h
          · exact .inr (List.mem_cons_of_mem _ h)

theorem memInsert_rising {m : Memory} (hm : m.rising) (a : Nat) (b : Byte) : (memInsert m a b).rising := by
  induction m with
  | nil => simp [memInsert, Memory.rising]
  | cons d m ih =>
    have hm' := hm
    rw [Memory.rising, List.pairwise_cons] at hm'
    simp only [memInsert]
    split
    · rename_i h
      refine List.pairwise_cons.2 ⟨fun c hc => ?_, hm⟩
      rcases List.mem_cons.1 hc with rfl | hc
      · exact h
      · have := hm'.1 c hc
        simp only; omega
    · split
      · rename_i h
        exact List.pairwise_cons.2 ⟨fun c hc => by have := hm'.1 c hc; simp only; omega, hm'.2⟩
      · refine List.pairwise_cons.2 ⟨fun c hc => ?_, ih hm'.2⟩
        rcases mem_memInsert hc with rfl | hc
        · simp only; omega
        · exact hm'.1 c hc

theorem memLookup_memInsert (m : Memory) (a x : Nat) (b : Byte) :
    memLookup (memInsert m a b) x = if x = a then some b else memLookup m x := by
  induction m with
  | nil => simp [memInsert, memLookup]
  | cons d m ih =>
    simp only [memInsert]
    split
    · simp [memLookup]
    · split
      · rename_i h
        simp only [memLookup, ← h]
        split <;> rfl
      · simp only [memLookup, ih]
        by_cases hx : x = d.1
        · rw [if_pos hx, if_pos hx, if_neg (by omega)]
        · rw [if_neg hx, if_neg hx]

/-! ### Storing -/

theorem memStore_wf {b : Buf} {m : Memory} (hm : Memory.wf b m) (a : Nat) (v : Byte) :
    Memory.wf b (memStore b m a v) := by
  unfold memStore
  split
  · exact ⟨memErase_rising hm.1 a, fun c hc => hm.2 c (mem_memErase hc)⟩
  · rename_i h
    refine ⟨memInsert_rising hm.1 a v, fun c hc => ?_⟩
    rcases mem_memInsert hc with rfl | hc
    · exact h
    · exact hm.2 c hc

theorem memStore_within {b : Buf} {m : Memory} {n : Nat} (hm : Memory.within n m) {a : Nat} (ha : a < n) (v : Byte) :
    Memory.within n (memStore b m a v) := by
  intro c hc
  unfold memStore at hc
  split at hc
  · exact hm c (mem_memErase hc)
  · rcases mem_memInsert hc with rfl | hc
    · exact ha
    · exact hm c hc

/-- A byte read after a store: the stored byte at its offset, what it was elsewhere. -/
theorem cellByte_memStore {b : Buf} {m : Memory} (hm : Memory.wf b m) (a x : Nat) (v : Byte) :
    cellByte b (memStore b m a v) x = if x = a then v else cellByte b m x := by
  unfold cellByte memStore
  by_cases h : b.unlisted = some v
  · rw [if_pos h, memLookup_memErase hm.1]
    by_cases hx : x = a
    · simp [hx, h]
    · simp [hx]
  · rw [if_neg h, memLookup_memInsert]
    by_cases hx : x = a <;> simp [hx]

theorem memStoreBytes_wf {b : Buf} {m : Memory} (hm : Memory.wf b m) (a : Nat) (vs : List Byte) :
    Memory.wf b (memStoreBytes b m a vs) := by
  induction vs generalizing m a with
  | nil => exact hm
  | cons v vs ih => exact ih (memStore_wf hm a v) (a + 1)

theorem memStoreBytes_within {b : Buf} {m : Memory} {n : Nat} (hm : Memory.within n m) {a : Nat} {vs : List Byte}
    (h : a + vs.length ≤ n) : Memory.within n (memStoreBytes b m a vs) := by
  induction vs generalizing m a with
  | nil => exact hm
  | cons v vs ih =>
    rw [List.length_cons] at h
    exact ih (memStore_within hm (by omega) v) (by omega)

/-- A byte read after a sequence of bytes was stored. -/
theorem cellByte_memStoreBytes {b : Buf} {m : Memory} (hm : Memory.wf b m) (a x : Nat) (vs : List Byte) :
    cellByte b (memStoreBytes b m a vs) x =
      if a ≤ x ∧ x < a + vs.length then vs.getD (x - a) 0x00#8 else cellByte b m x := by
  induction vs generalizing m a with
  | nil =>
    rw [memStoreBytes, if_neg (by simp only [List.length_nil]; omega)]
  | cons v vs ih =>
    rw [memStoreBytes, ih (memStore_wf hm a v), cellByte_memStore hm]
    by_cases hx : x = a
    · subst hx; simp
    · by_cases hin : a + 1 ≤ x ∧ x < a + 1 + vs.length
      · have e : x - a = (x - (a + 1)) + 1 := by omega
        rw [if_pos hin, if_pos (by simp only [List.length_cons]; omega), e, List.getD_cons_succ]
      · rw [if_neg hin, if_neg hx, if_neg (by simp only [List.length_cons]; omega)]

/-! ### Zeroing the end of a buffer -/

theorem memZeroFrom_wf {b : Buf} {m : Memory} (hm : Memory.wf b m) (n : Nat) : Memory.wf b (memZeroFrom m n) :=
  ⟨hm.1.filter _, fun c hc => hm.2 c (List.mem_of_mem_filter hc)⟩

theorem memZeroFrom_within (m : Memory) (n : Nat) : Memory.within n (memZeroFrom m n) := fun c hc => by
  simpa using (List.mem_filter.1 hc).2

theorem memZeroFrom_within_of {m : Memory} {k : Nat} (hm : Memory.within k m) (n : Nat) :
    Memory.within k (memZeroFrom m n) := fun c hc => hm c (List.mem_of_mem_filter hc)

@[simp] theorem memZeroFrom_zero (m : Memory) : memZeroFrom m 0 = [] := by simp [memZeroFrom]

theorem memLookup_memZeroFrom (m : Memory) (n x : Nat) :
    memLookup (memZeroFrom m n) x = if x < n then memLookup m x else none := by
  induction m with
  | nil => simp [memZeroFrom, memLookup]
  | cons c m ih =>
    unfold memZeroFrom at ih ⊢
    simp only [List.filter_cons]
    split
    · rename_i h
      simp only [decide_eq_true_eq] at h
      simp only [memLookup, ih]
      by_cases hx : x = c.1
      · rw [if_pos hx, if_pos (by omega), if_pos hx]
      · rw [if_neg hx, if_neg hx]
    · rename_i h
      simp only [decide_eq_true_eq] at h
      simp only [memLookup, ih]
      by_cases hx : x = c.1
      · rw [if_neg (by omega), if_neg (by omega)]
      · rw [if_neg hx]

/-- A byte of `DEC` read after its end was zeroed. -/
theorem cellByte_memZeroFrom_dec (m : Memory) (n x : Nat) :
    cellByte .dec (memZeroFrom m n) x = if x < n then cellByte .dec m x else 0x00#8 := by
  unfold cellByte
  rw [memLookup_memZeroFrom]
  by_cases hx : x < n
  · rw [if_pos hx, if_pos hx]
  · rw [if_neg hx, if_neg hx]; rfl

/-! ### Equal memories are equal data -/

theorem memory_ext {m m' : Memory} (hm : m.rising) (hm' : m'.rising) (h : ∀ a, memLookup m a = memLookup m' a) :
    m = m' := by
  induction m generalizing m' with
  | nil =>
    cases m' with
    | nil => rfl
    | cons d m' => simpa [memLookup] using h d.1
  | cons c m ih =>
    cases m' with
    | nil => simpa [memLookup] using h c.1
    | cons d m' =>
      have hm1 := hm
      have hm1' := hm'
      rw [Memory.rising, List.pairwise_cons] at hm hm'
      have hc : (c.1, c.2) ∈ d :: m' := mem_of_memLookup (by rw [← h c.1]; simp [memLookup])
      have hd : (d.1, d.2) ∈ c :: m := mem_of_memLookup (by rw [h d.1]; simp [memLookup])
      have hcd : c = d := by
        rcases List.mem_cons.1 hc with e | hc
        · exact e
        · rcases List.mem_cons.1 hd with e | hd
          · exact e.symm
          · have h1 := hm'.1 _ hc
            have h2 := hm.1 _ hd
            simp only at h1 h2
            omega
      subst hcd
      rw [ih hm.2 hm'.2]
      intro a
      by_cases ha : a = c.1
      · rw [ha, memLookup_none_of_lt hm.1, memLookup_none_of_lt hm'.1]
      · simpa [memLookup, ha] using h a

/-- Two contents of a buffer in canonical form that list the same bytes are the same list. -/
theorem memory_wf_ext {b : Buf} {m m' : Memory} (hm : Memory.wf b m) (hm' : Memory.wf b m')
    (h : ∀ a, memLookup m a = memLookup m' a) : m = m' := memory_ext hm.1 hm'.1 h

/-- The buffers of the reset state are in canonical form. -/
theorem reset_buf_wf (b : Buf) : Memory.wf b (State.reset.buf b) := by
  cases b <;> simp [State.buf, State.reset, Memory.wf]

end Sys2Proof.Machine
end

