-- ==== Sys2Proof/Laws/State.lean ====
section
/-! SUPPORT. One lemma per field for every named state update: what the update leaves in the field. -/

namespace Sys2Proof.Machine

/-! ### `raise` -/

@[simp] theorem raise_klen (k : ErrorKind) (s : State) : (raise k s).klen = s.klen := by simp only [raise]
@[simp] theorem raise_ivlen (k : ErrorKind) (s : State) : (raise k s).ivlen = s.ivlen := by simp only [raise]
@[simp] theorem raise_ctlen (k : ErrorKind) (s : State) : (raise k s).ctlen = s.ctlen := by simp only [raise]
@[simp] theorem raise_ptlen (k : ErrorKind) (s : State) : (raise k s).ptlen = s.ptlen := by simp only [raise]
@[simp] theorem raise_status (k : ErrorKind) (s : State) : (raise k s).status = s.status := by simp only [raise]
@[simp] theorem raise_keybuf (k : ErrorKind) (s : State) : (raise k s).keybuf = s.keybuf := by simp only [raise]
@[simp] theorem raise_ivbuf (k : ErrorKind) (s : State) : (raise k s).ivbuf = s.ivbuf := by simp only [raise]
@[simp] theorem raise_ctbuf (k : ErrorKind) (s : State) : (raise k s).ctbuf = s.ctbuf := by simp only [raise]
@[simp] theorem raise_dec (k : ErrorKind) (s : State) : (raise k s).dec = s.dec := by simp only [raise]
@[simp] theorem raise_sreg (k : ErrorKind) (s : State) : (raise k s).sreg = s.sreg := by simp only [raise]
@[simp] theorem raise_prev (k : ErrorKind) (s : State) : (raise k s).prev = s.prev := by simp only [raise]
@[simp] theorem raise_cur (k : ErrorKind) (s : State) : (raise k s).cur = s.cur := by simp only [raise]
@[simp] theorem raise_p (k : ErrorKind) (s : State) : (raise k s).p = s.p := by simp only [raise]
@[simp] theorem raise_w (k : ErrorKind) (s : State) : (raise k s).w = s.w := by simp only [raise]
@[simp] theorem raise_phase (k : ErrorKind) (s : State) : (raise k s).phase = .fail := by simp only [raise]
@[simp] theorem raise_blk (k : ErrorKind) (s : State) : (raise k s).blk = s.blk := by simp only [raise]
@[simp] theorem raise_rnd (k : ErrorKind) (s : State) : (raise k s).rnd = s.rnd := by simp only [raise]
@[simp] theorem raise_ki (k : ErrorKind) (s : State) : (raise k s).ki = s.ki := by simp only [raise]
@[simp] theorem raise_errk (k : ErrorKind) (s : State) : (raise k s).errk = .err k := by simp only [raise]
@[simp] theorem raise_engineFault (k : ErrorKind) (s : State) : (raise k s).engineFault = s.engineFault := by simp only [raise]
@[simp] theorem raise_params (k : ErrorKind) (s : State) : (raise k s).params = s.params := by simp only [raise]
@[simp] theorem raise_inputs (k : ErrorKind) (s : State) : (raise k s).inputs = s.inputs := by simp only [raise]
@[simp] theorem raise_readData (k : ErrorKind) (s : State) : (raise k s).readData = s.readData := by simp only [raise]
@[simp] theorem raise_pureValue (k : ErrorKind) (s : State) : (raise k s).pureValue = s.pureValue := by simp only [raise]

/-! ### `clearResponse` -/

@[simp] theorem clearResponse_klen (s : State) : (clearResponse s).klen = s.klen := by simp only [clearResponse]
@[simp] theorem clearResponse_ivlen (s : State) : (clearResponse s).ivlen = s.ivlen := by simp only [clearResponse]
@[simp] theorem clearResponse_ctlen (s : State) : (clearResponse s).ctlen = s.ctlen := by simp only [clearResponse]
@[simp] theorem clearResponse_ptlen (s : State) : (clearResponse s).ptlen = 0 := by simp only [clearResponse]
@[simp] theorem clearResponse_status (s : State) : (clearResponse s).status = .ok := by simp only [clearResponse]
@[simp] theorem clearResponse_keybuf (s : State) : (clearResponse s).keybuf = s.keybuf := by simp only [clearResponse]
@[simp] theorem clearResponse_ivbuf (s : State) : (clearResponse s).ivbuf = s.ivbuf := by simp only [clearResponse]
@[simp] theorem clearResponse_ctbuf (s : State) : (clearResponse s).ctbuf = s.ctbuf := by simp only [clearResponse]
@[simp] theorem clearResponse_dec (s : State) : (clearResponse s).dec = memZeroFrom s.dec 0 := by simp only [clearResponse]
@[simp] theorem clearResponse_sreg (s : State) : (clearResponse s).sreg = s.sreg := by simp only [clearResponse]
@[simp] theorem clearResponse_prev (s : State) : (clearResponse s).prev = s.prev := by simp only [clearResponse]
@[simp] theorem clearResponse_cur (s : State) : (clearResponse s).cur = s.cur := by simp only [clearResponse]
@[simp] theorem clearResponse_p (s : State) : (clearResponse s).p = s.p := by simp only [clearResponse]
@[simp] theorem clearResponse_w (s : State) : (clearResponse s).w = s.w := by simp only [clearResponse]
@[simp] theorem clearResponse_phase (s : State) : (clearResponse s).phase = s.phase := by simp only [clearResponse]
@[simp] theorem clearResponse_blk (s : State) : (clearResponse s).blk = s.blk := by simp only [clearResponse]
@[simp] theorem clearResponse_rnd (s : State) : (clearResponse s).rnd = s.rnd := by simp only [clearResponse]
@[simp] theorem clearResponse_ki (s : State) : (clearResponse s).ki = s.ki := by simp only [clearResponse]
@[simp] theorem clearResponse_errk (s : State) : (clearResponse s).errk = s.errk := by simp only [clearResponse]
@[simp] theorem clearResponse_engineFault (s : State) : (clearResponse s).engineFault = s.engineFault := by simp only [clearResponse]
@[simp] theorem clearResponse_params (s : State) : (clearResponse s).params = s.params := by simp only [clearResponse]
@[simp] theorem clearResponse_inputs (s : State) : (clearResponse s).inputs = s.inputs := by simp only [clearResponse]
@[simp] theorem clearResponse_readData (s : State) : (clearResponse s).readData = s.readData := by simp only [clearResponse]
@[simp] theorem clearResponse_pureValue (s : State) : (clearResponse s).pureValue = s.pureValue := by simp only [clearResponse]

/-! ### `wiped` -/

@[simp] theorem wiped_klen (s : State) : (wiped s).klen = s.klen := by simp only [wiped]
@[simp] theorem wiped_ivlen (s : State) : (wiped s).ivlen = s.ivlen := by simp only [wiped]
@[simp] theorem wiped_ctlen (s : State) : (wiped s).ctlen = s.ctlen := by simp only [wiped]
@[simp] theorem wiped_ptlen (s : State) : (wiped s).ptlen = s.ptlen := by simp only [wiped]
@[simp] theorem wiped_status (s : State) : (wiped s).status = s.errk := by simp only [wiped]
@[simp] theorem wiped_keybuf (s : State) : (wiped s).keybuf = memStoreBytes .keybuf s.keybuf 0 (List.replicate 32 0x00#8) := by simp only [wiped]
@[simp] theorem wiped_ivbuf (s : State) : (wiped s).ivbuf = memStoreBytes .ivbuf s.ivbuf 0 (List.replicate 16 0x00#8) := by simp only [wiped]
@[simp] theorem wiped_ctbuf (s : State) : (wiped s).ctbuf = s.ctbuf := by simp only [wiped]
@[simp] theorem wiped_dec (s : State) : (wiped s).dec = memZeroFrom s.dec (keptByWipe s) := by simp only [wiped]
@[simp] theorem wiped_sreg (s : State) : (wiped s).sreg = zeroBlock := by simp only [wiped]
@[simp] theorem wiped_prev (s : State) : (wiped s).prev = zeroBlock := by simp only [wiped]
@[simp] theorem wiped_cur (s : State) : (wiped s).cur = zeroBlock := by simp only [wiped]
@[simp] theorem wiped_p (s : State) : (wiped s).p = 0x00#8 := by simp only [wiped]
@[simp] theorem wiped_w (s : State) : (wiped s).w = zeroSchedule := by simp only [wiped]
@[simp] theorem wiped_phase (s : State) : (wiped s).phase = s.phase := by simp only [wiped]
@[simp] theorem wiped_blk (s : State) : (wiped s).blk = 0 := by simp only [wiped]
@[simp] theorem wiped_rnd (s : State) : (wiped s).rnd = 0#4 := by simp only [wiped]
@[simp] theorem wiped_ki (s : State) : (wiped s).ki = 0#6 := by simp only [wiped]
@[simp] theorem wiped_errk (s : State) : (wiped s).errk = .ok := by simp only [wiped]
@[simp] theorem wiped_engineFault (s : State) : (wiped s).engineFault = s.engineFault := by simp only [wiped]
@[simp] theorem wiped_params (s : State) : (wiped s).params = s.params := by simp only [wiped]
@[simp] theorem wiped_inputs (s : State) : (wiped s).inputs = s.inputs := by simp only [wiped]
@[simp] theorem wiped_readData (s : State) : (wiped s).readData = s.readData := by simp only [wiped]
@[simp] theorem wiped_pureValue (s : State) : (wiped s).pureValue = s.pureValue := by simp only [wiped]

/-! ### `applyReset` -/

@[simp] theorem applyReset_klen (s : State) : (applyReset s).klen = 0 := by simp only [applyReset]
@[simp] theorem applyReset_ivlen (s : State) : (applyReset s).ivlen = 0 := by simp only [applyReset]
@[simp] theorem applyReset_ctlen (s : State) : (applyReset s).ctlen = 0 := by simp only [applyReset]
@[simp] theorem applyReset_ptlen (s : State) : (applyReset s).ptlen = 0 := by simp only [applyReset]
@[simp] theorem applyReset_status (s : State) : (applyReset s).status = .ok := by simp only [applyReset]
@[simp] theorem applyReset_keybuf (s : State) : (applyReset s).keybuf = [] := by simp only [applyReset]
@[simp] theorem applyReset_ivbuf (s : State) : (applyReset s).ivbuf = [] := by simp only [applyReset]
@[simp] theorem applyReset_ctbuf (s : State) : (applyReset s).ctbuf = s.ctbuf := by simp only [applyReset]
@[simp] theorem applyReset_dec (s : State) : (applyReset s).dec = s.dec := by simp only [applyReset]
@[simp] theorem applyReset_sreg (s : State) : (applyReset s).sreg = zeroBlock := by simp only [applyReset]
@[simp] theorem applyReset_prev (s : State) : (applyReset s).prev = zeroBlock := by simp only [applyReset]
@[simp] theorem applyReset_cur (s : State) : (applyReset s).cur = zeroBlock := by simp only [applyReset]
@[simp] theorem applyReset_p (s : State) : (applyReset s).p = 0x00#8 := by simp only [applyReset]
@[simp] theorem applyReset_w (s : State) : (applyReset s).w = zeroSchedule := by simp only [applyReset]
@[simp] theorem applyReset_phase (s : State) : (applyReset s).phase = .idle := by simp only [applyReset]
@[simp] theorem applyReset_blk (s : State) : (applyReset s).blk = 0 := by simp only [applyReset]
@[simp] theorem applyReset_rnd (s : State) : (applyReset s).rnd = 0#4 := by simp only [applyReset]
@[simp] theorem applyReset_ki (s : State) : (applyReset s).ki = 0#6 := by simp only [applyReset]
@[simp] theorem applyReset_errk (s : State) : (applyReset s).errk = .ok := by simp only [applyReset]
@[simp] theorem applyReset_engineFault (s : State) : (applyReset s).engineFault = s.engineFault := by simp only [applyReset]
@[simp] theorem applyReset_params (s : State) : (applyReset s).params = s.params := by simp only [applyReset]
@[simp] theorem applyReset_inputs (s : State) : (applyReset s).inputs = s.inputs := by simp only [applyReset]
@[simp] theorem applyReset_readData (s : State) : (applyReset s).readData = s.readData := by simp only [applyReset]
@[simp] theorem applyReset_pureValue (s : State) : (applyReset s).pureValue = s.pureValue := by simp only [applyReset]

/-! ### `kexpCopy` -/

@[simp] theorem kexpCopy_klen (s : State) : (kexpCopy s).klen = s.klen := by simp only [kexpCopy]
@[simp] theorem kexpCopy_ivlen (s : State) : (kexpCopy s).ivlen = s.ivlen := by simp only [kexpCopy]
@[simp] theorem kexpCopy_ctlen (s : State) : (kexpCopy s).ctlen = s.ctlen := by simp only [kexpCopy]
@[simp] theorem kexpCopy_ptlen (s : State) : (kexpCopy s).ptlen = s.ptlen := by simp only [kexpCopy]
@[simp] theorem kexpCopy_status (s : State) : (kexpCopy s).status = s.status := by simp only [kexpCopy]
@[simp] theorem kexpCopy_keybuf (s : State) : (kexpCopy s).keybuf = s.keybuf := by simp only [kexpCopy]
@[simp] theorem kexpCopy_ivbuf (s : State) : (kexpCopy s).ivbuf = s.ivbuf := by simp only [kexpCopy]
@[simp] theorem kexpCopy_ctbuf (s : State) : (kexpCopy s).ctbuf = s.ctbuf := by simp only [kexpCopy]
@[simp] theorem kexpCopy_dec (s : State) : (kexpCopy s).dec = s.dec := by simp only [kexpCopy]
@[simp] theorem kexpCopy_sreg (s : State) : (kexpCopy s).sreg = s.sreg := by simp only [kexpCopy]
@[simp] theorem kexpCopy_prev (s : State) : (kexpCopy s).prev = s.prev := by simp only [kexpCopy]
@[simp] theorem kexpCopy_cur (s : State) : (kexpCopy s).cur = s.cur := by simp only [kexpCopy]
@[simp] theorem kexpCopy_p (s : State) : (kexpCopy s).p = s.p := by simp only [kexpCopy]
@[simp] theorem kexpCopy_w (s : State) : (kexpCopy s).w = copyKey (keyOperand s) s.w := by simp only [kexpCopy]
@[simp] theorem kexpCopy_phase (s : State) : (kexpCopy s).phase = s.phase := by simp only [kexpCopy]
@[simp] theorem kexpCopy_blk (s : State) : (kexpCopy s).blk = s.blk := by simp only [kexpCopy]
@[simp] theorem kexpCopy_rnd (s : State) : (kexpCopy s).rnd = s.rnd := by simp only [kexpCopy]
@[simp] theorem kexpCopy_ki (s : State) : (kexpCopy s).ki = 8#6 := by simp only [kexpCopy]
@[simp] theorem kexpCopy_errk (s : State) : (kexpCopy s).errk = s.errk := by simp only [kexpCopy]
@[simp] theorem kexpCopy_engineFault (s : State) : (kexpCopy s).engineFault = s.engineFault := by simp only [kexpCopy]
@[simp] theorem kexpCopy_params (s : State) : (kexpCopy s).params = s.params := by simp only [kexpCopy]
@[simp] theorem kexpCopy_inputs (s : State) : (kexpCopy s).inputs = s.inputs := by simp only [kexpCopy]
@[simp] theorem kexpCopy_readData (s : State) : (kexpCopy s).readData = s.readData := by simp only [kexpCopy]
@[simp] theorem kexpCopy_pureValue (s : State) : (kexpCopy s).pureValue = s.pureValue := by simp only [kexpCopy]

/-! ### `kexpWord` -/

@[simp] theorem kexpWord_klen (s : State) : (kexpWord s).klen = s.klen := by simp only [kexpWord]
@[simp] theorem kexpWord_ivlen (s : State) : (kexpWord s).ivlen = s.ivlen := by simp only [kexpWord]
@[simp] theorem kexpWord_ctlen (s : State) : (kexpWord s).ctlen = s.ctlen := by simp only [kexpWord]
@[simp] theorem kexpWord_ptlen (s : State) : (kexpWord s).ptlen = s.ptlen := by simp only [kexpWord]
@[simp] theorem kexpWord_status (s : State) : (kexpWord s).status = s.status := by simp only [kexpWord]
@[simp] theorem kexpWord_keybuf (s : State) : (kexpWord s).keybuf = s.keybuf := by simp only [kexpWord]
@[simp] theorem kexpWord_ivbuf (s : State) : (kexpWord s).ivbuf = s.ivbuf := by simp only [kexpWord]
@[simp] theorem kexpWord_ctbuf (s : State) : (kexpWord s).ctbuf = s.ctbuf := by simp only [kexpWord]
@[simp] theorem kexpWord_dec (s : State) : (kexpWord s).dec = s.dec := by simp only [kexpWord]
@[simp] theorem kexpWord_sreg (s : State) : (kexpWord s).sreg = s.sreg := by simp only [kexpWord]
@[simp] theorem kexpWord_prev (s : State) : (kexpWord s).prev = s.prev := by simp only [kexpWord]
@[simp] theorem kexpWord_cur (s : State) : (kexpWord s).cur = s.cur := by simp only [kexpWord]
@[simp] theorem kexpWord_p (s : State) : (kexpWord s).p = s.p := by simp only [kexpWord]
@[simp] theorem kexpWord_w (s : State) : (kexpWord s).w = s.w.set! s.ki.toNat (expandWord s.w s.ki.toNat) := by simp only [kexpWord]
@[simp] theorem kexpWord_phase (s : State) : (kexpWord s).phase = s.phase := by simp only [kexpWord]
@[simp] theorem kexpWord_blk (s : State) : (kexpWord s).blk = s.blk := by simp only [kexpWord]
@[simp] theorem kexpWord_rnd (s : State) : (kexpWord s).rnd = s.rnd := by simp only [kexpWord]
@[simp] theorem kexpWord_ki (s : State) : (kexpWord s).ki = s.ki + 1#6 := by simp only [kexpWord]
@[simp] theorem kexpWord_errk (s : State) : (kexpWord s).errk = s.errk := by simp only [kexpWord]
@[simp] theorem kexpWord_engineFault (s : State) : (kexpWord s).engineFault = s.engineFault := by simp only [kexpWord]
@[simp] theorem kexpWord_params (s : State) : (kexpWord s).params = s.params := by simp only [kexpWord]
@[simp] theorem kexpWord_inputs (s : State) : (kexpWord s).inputs = s.inputs := by simp only [kexpWord]
@[simp] theorem kexpWord_readData (s : State) : (kexpWord s).readData = s.readData := by simp only [kexpWord]
@[simp] theorem kexpWord_pureValue (s : State) : (kexpWord s).pureValue = s.pureValue := by simp only [kexpWord]

/-! ### `kexpEnd` -/

@[simp] theorem kexpEnd_klen (s : State) : (kexpEnd s).klen = s.klen := by
  unfold kexpEnd; split <;> rfl
@[simp] theorem kexpEnd_ivlen (s : State) : (kexpEnd s).ivlen = s.ivlen := by
  unfold kexpEnd; split <;> rfl
@[simp] theorem kexpEnd_ctlen (s : State) : (kexpEnd s).ctlen = s.ctlen := by
  unfold kexpEnd; split <;> rfl
@[simp] theorem kexpEnd_ptlen (s : State) : (kexpEnd s).ptlen = s.ptlen := by
  unfold kexpEnd; split <;> rfl
@[simp] theorem kexpEnd_status (s : State) : (kexpEnd s).status = s.status := by
  unfold kexpEnd; split <;> rfl
@[simp] theorem kexpEnd_keybuf (s : State) : (kexpEnd s).keybuf = s.keybuf := by
  unfold kexpEnd; split <;> rfl
@[simp] theorem kexpEnd_ivbuf (s : State) : (kexpEnd s).ivbuf = s.ivbuf := by
  unfold kexpEnd; split <;> rfl
@[simp] theorem kexpEnd_ctbuf (s : State) : (kexpEnd s).ctbuf = s.ctbuf := by
  unfold kexpEnd; split <;> rfl
@[simp] theorem kexpEnd_dec (s : State) : (kexpEnd s).dec = s.dec := by
  unfold kexpEnd; split <;> rfl
@[simp] theorem kexpEnd_sreg (s : State) : (kexpEnd s).sreg = s.sreg := by
  unfold kexpEnd; split <;> rfl
@[simp] theorem kexpEnd_prev (s : State) : (kexpEnd s).prev = s.prev := by
  unfold kexpEnd; split <;> rfl
@[simp] theorem kexpEnd_cur (s : State) : (kexpEnd s).cur = s.cur := by
  unfold kexpEnd; split <;> rfl
@[simp] theorem kexpEnd_p (s : State) : (kexpEnd s).p = s.p := by
  unfold kexpEnd; split <;> rfl
@[simp] theorem kexpEnd_w (s : State) : (kexpEnd s).w = s.w := by
  unfold kexpEnd; split <;> rfl
@[simp] theorem kexpEnd_rnd (s : State) : (kexpEnd s).rnd = s.rnd := by
  unfold kexpEnd; split <;> rfl
@[simp] theorem kexpEnd_ki (s : State) : (kexpEnd s).ki = s.ki := by
  unfold kexpEnd; split <;> rfl
@[simp] theorem kexpEnd_errk (s : State) : (kexpEnd s).errk = s.errk := by
  unfold kexpEnd; split <;> rfl
@[simp] theorem kexpEnd_engineFault (s : State) : (kexpEnd s).engineFault = s.engineFault := by
  unfold kexpEnd; split <;> rfl
@[simp] theorem kexpEnd_params (s : State) : (kexpEnd s).params = s.params := by
  unfold kexpEnd; split <;> rfl
@[simp] theorem kexpEnd_inputs (s : State) : (kexpEnd s).inputs = s.inputs := by
  unfold kexpEnd; split <;> rfl
@[simp] theorem kexpEnd_readData (s : State) : (kexpEnd s).readData = s.readData := by
  unfold kexpEnd; split <;> rfl
@[simp] theorem kexpEnd_pureValue (s : State) : (kexpEnd s).pureValue = s.pureValue := by
  unfold kexpEnd; split <;> rfl

/-! ### `nextBlock` -/

@[simp] theorem nextBlock_klen (s : State) : (nextBlock s).klen = s.klen := by
  unfold nextBlock; split <;> rfl
@[simp] theorem nextBlock_ivlen (s : State) : (nextBlock s).ivlen = s.ivlen := by
  unfold nextBlock; split <;> rfl
@[simp] theorem nextBlock_ctlen (s : State) : (nextBlock s).ctlen = s.ctlen := by
  unfold nextBlock; split <;> rfl
@[simp] theorem nextBlock_ptlen (s : State) : (nextBlock s).ptlen = s.ptlen := by
  unfold nextBlock; split <;> rfl
@[simp] theorem nextBlock_status (s : State) : (nextBlock s).status = s.status := by
  unfold nextBlock; split <;> rfl
@[simp] theorem nextBlock_keybuf (s : State) : (nextBlock s).keybuf = s.keybuf := by
  unfold nextBlock; split <;> rfl
@[simp] theorem nextBlock_ivbuf (s : State) : (nextBlock s).ivbuf = s.ivbuf := by
  unfold nextBlock; split <;> rfl
@[simp] theorem nextBlock_ctbuf (s : State) : (nextBlock s).ctbuf = s.ctbuf := by
  unfold nextBlock; split <;> rfl
@[simp] theorem nextBlock_dec (s : State) : (nextBlock s).dec = s.dec := by
  unfold nextBlock; split <;> rfl
@[simp] theorem nextBlock_sreg (s : State) : (nextBlock s).sreg = s.sreg := by
  unfold nextBlock; split <;> rfl
@[simp] theorem nextBlock_prev (s : State) : (nextBlock s).prev = s.prev := by
  unfold nextBlock; split <;> rfl
@[simp] theorem nextBlock_cur (s : State) : (nextBlock s).cur = s.cur := by
  unfold nextBlock; split <;> rfl
@[simp] theorem nextBlock_p (s : State) : (nextBlock s).p = s.p := by
  unfold nextBlock; split <;> rfl
@[simp] theorem nextBlock_w (s : State) : (nextBlock s).w = s.w := by
  unfold nextBlock; split <;> rfl
@[simp] theorem nextBlock_rnd (s : State) : (nextBlock s).rnd = s.rnd := by
  unfold nextBlock; split <;> rfl
@[simp] theorem nextBlock_ki (s : State) : (nextBlock s).ki = s.ki := by
  unfold nextBlock; split <;> rfl
@[simp] theorem nextBlock_errk (s : State) : (nextBlock s).errk = s.errk := by
  unfold nextBlock; split <;> rfl
@[simp] theorem nextBlock_engineFault (s : State) : (nextBlock s).engineFault = s.engineFault := by
  unfold nextBlock; split <;> rfl
@[simp] theorem nextBlock_params (s : State) : (nextBlock s).params = s.params := by
  unfold nextBlock; split <;> rfl
@[simp] theorem nextBlock_inputs (s : State) : (nextBlock s).inputs = s.inputs := by
  unfold nextBlock; split <;> rfl
@[simp] theorem nextBlock_readData (s : State) : (nextBlock s).readData = s.readData := by
  unfold nextBlock; split <;> rfl
@[simp] theorem nextBlock_pureValue (s : State) : (nextBlock s).pureValue = s.pureValue := by
  unfold nextBlock; split <;> rfl

/-! ### `setBuf` and `windowStore` -/

@[simp] theorem setBuf_klen (s : State) (b : Buf) (m : Memory) : (s.setBuf b m).klen = s.klen := by
  cases b <;> rfl
@[simp] theorem setBuf_ivlen (s : State) (b : Buf) (m : Memory) : (s.setBuf b m).ivlen = s.ivlen := by
  cases b <;> rfl
@[simp] theorem setBuf_ctlen (s : State) (b : Buf) (m : Memory) : (s.setBuf b m).ctlen = s.ctlen := by
  cases b <;> rfl
@[simp] theorem setBuf_ptlen (s : State) (b : Buf) (m : Memory) : (s.setBuf b m).ptlen = s.ptlen := by
  cases b <;> rfl
@[simp] theorem setBuf_status (s : State) (b : Buf) (m : Memory) : (s.setBuf b m).status = s.status := by
  cases b <;> rfl
@[simp] theorem setBuf_sreg (s : State) (b : Buf) (m : Memory) : (s.setBuf b m).sreg = s.sreg := by
  cases b <;> rfl
@[simp] theorem setBuf_prev (s : State) (b : Buf) (m : Memory) : (s.setBuf b m).prev = s.prev := by
  cases b <;> rfl
@[simp] theorem setBuf_cur (s : State) (b : Buf) (m : Memory) : (s.setBuf b m).cur = s.cur := by
  cases b <;> rfl
@[simp] theorem setBuf_p (s : State) (b : Buf) (m : Memory) : (s.setBuf b m).p = s.p := by
  cases b <;> rfl
@[simp] theorem setBuf_w (s : State) (b : Buf) (m : Memory) : (s.setBuf b m).w = s.w := by
  cases b <;> rfl
@[simp] theorem setBuf_phase (s : State) (b : Buf) (m : Memory) : (s.setBuf b m).phase = s.phase := by
  cases b <;> rfl
@[simp] theorem setBuf_blk (s : State) (b : Buf) (m : Memory) : (s.setBuf b m).blk = s.blk := by
  cases b <;> rfl
@[simp] theorem setBuf_rnd (s : State) (b : Buf) (m : Memory) : (s.setBuf b m).rnd = s.rnd := by
  cases b <;> rfl
@[simp] theorem setBuf_ki (s : State) (b : Buf) (m : Memory) : (s.setBuf b m).ki = s.ki := by
  cases b <;> rfl
@[simp] theorem setBuf_errk (s : State) (b : Buf) (m : Memory) : (s.setBuf b m).errk = s.errk := by
  cases b <;> rfl
@[simp] theorem setBuf_engineFault (s : State) (b : Buf) (m : Memory) : (s.setBuf b m).engineFault = s.engineFault := by
  cases b <;> rfl
@[simp] theorem setBuf_params (s : State) (b : Buf) (m : Memory) : (s.setBuf b m).params = s.params := by
  cases b <;> rfl
@[simp] theorem setBuf_inputs (s : State) (b : Buf) (m : Memory) : (s.setBuf b m).inputs = s.inputs := by
  cases b <;> rfl
@[simp] theorem setBuf_readData (s : State) (b : Buf) (m : Memory) : (s.setBuf b m).readData = s.readData := by
  cases b <;> rfl
@[simp] theorem setBuf_pureValue (s : State) (b : Buf) (m : Memory) : (s.setBuf b m).pureValue = s.pureValue := by
  cases b <;> rfl
@[simp] theorem buf_setBuf_same (s : State) (b : Buf) (m : Memory) : (s.setBuf b m).buf b = m := by
  cases b <;> rfl
theorem buf_setBuf_other (s : State) (b c : Buf) (m : Memory) (h : c ≠ b) : (s.setBuf b m).buf c = s.buf c := by
  cases b <;> cases c <;> first | rfl | exact absurd rfl h
@[simp] theorem windowStore_klen (w : Window) (o : Nat) (v : Byte) (s : State) : (windowStore w o v s).klen = s.klen := by
  cases w <;> rfl
@[simp] theorem windowStore_ivlen (w : Window) (o : Nat) (v : Byte) (s : State) : (windowStore w o v s).ivlen = s.ivlen := by
  cases w <;> rfl
@[simp] theorem windowStore_ctlen (w : Window) (o : Nat) (v : Byte) (s : State) : (windowStore w o v s).ctlen = s.ctlen := by
  cases w <;> rfl
@[simp] theorem windowStore_ptlen (w : Window) (o : Nat) (v : Byte) (s : State) : (windowStore w o v s).ptlen = s.ptlen := by
  cases w <;> rfl
@[simp] theorem windowStore_status (w : Window) (o : Nat) (v : Byte) (s : State) : (windowStore w o v s).status = s.status := by
  cases w <;> rfl
@[simp] theorem windowStore_dec (w : Window) (o : Nat) (v : Byte) (s : State) : (windowStore w o v s).dec = s.dec := by
  cases w <;> rfl
@[simp] theorem windowStore_sreg (w : Window) (o : Nat) (v : Byte) (s : State) : (windowStore w o v s).sreg = s.sreg := by
  cases w <;> rfl
@[simp] theorem windowStore_prev (w : Window) (o : Nat) (v : Byte) (s : State) : (windowStore w o v s).prev = s.prev := by
  cases w <;> rfl
@[simp] theorem windowStore_cur (w : Window) (o : Nat) (v : Byte) (s : State) : (windowStore w o v s).cur = s.cur := by
  cases w <;> rfl
@[simp] theorem windowStore_p (w : Window) (o : Nat) (v : Byte) (s : State) : (windowStore w o v s).p = s.p := by
  cases w <;> rfl
@[simp] theorem windowStore_w (w : Window) (o : Nat) (v : Byte) (s : State) : (windowStore w o v s).w = s.w := by
  cases w <;> rfl
@[simp] theorem windowStore_phase (w : Window) (o : Nat) (v : Byte) (s : State) : (windowStore w o v s).phase = s.phase := by
  cases w <;> rfl
@[simp] theorem windowStore_blk (w : Window) (o : Nat) (v : Byte) (s : State) : (windowStore w o v s).blk = s.blk := by
  cases w <;> rfl
@[simp] theorem windowStore_rnd (w : Window) (o : Nat) (v : Byte) (s : State) : (windowStore w o v s).rnd = s.rnd := by
  cases w <;> rfl
@[simp] theorem windowStore_ki (w : Window) (o : Nat) (v : Byte) (s : State) : (windowStore w o v s).ki = s.ki := by
  cases w <;> rfl
@[simp] theorem windowStore_errk (w : Window) (o : Nat) (v : Byte) (s : State) : (windowStore w o v s).errk = s.errk := by
  cases w <;> rfl
@[simp] theorem windowStore_engineFault (w : Window) (o : Nat) (v : Byte) (s : State) : (windowStore w o v s).engineFault = s.engineFault := by
  cases w <;> rfl
@[simp] theorem windowStore_params (w : Window) (o : Nat) (v : Byte) (s : State) : (windowStore w o v s).params = s.params := by
  cases w <;> rfl
@[simp] theorem windowStore_inputs (w : Window) (o : Nat) (v : Byte) (s : State) : (windowStore w o v s).inputs = s.inputs := by
  cases w <;> rfl
@[simp] theorem windowStore_readData (w : Window) (o : Nat) (v : Byte) (s : State) : (windowStore w o v s).readData = s.readData := by
  cases w <;> rfl
@[simp] theorem windowStore_pureValue (w : Window) (o : Nat) (v : Byte) (s : State) : (windowStore w o v s).pureValue = s.pureValue := by
  cases w <;> rfl

end Sys2Proof.Machine
end

