-- ==== Sys2Proof/Laws/Ops.lean ====
section
/-! SUPPORT. For each shared operation, one lemma that says everything it can do. -/

namespace Sys2Proof.Machine

/-! ### Bytes of a state -/

@[simp] theorem byteAt_setBuf_same (s : State) (b : Buf) (m : Memory) (a : Nat) :
    (s.setBuf b m).byteAt b a = cellByte b m a := by
  rw [State.byteAt, buf_setBuf_same]

theorem byteAt_setBuf_other (s : State) (b c : Buf) (m : Memory) (a : Nat) (h : c ≠ b) :
    (s.setBuf b m).byteAt c a = s.byteAt c a := by
  rw [State.byteAt, buf_setBuf_other s b c m h, State.byteAt]

/-- A byte of the state depends on the contents of its buffer alone. -/
theorem byteAt_congr {s t : State} {b : Buf} (h : t.buf b = s.buf b) (a : Nat) : t.byteAt b a = s.byteAt b a := by
  rw [State.byteAt, State.byteAt, h]

/-! ### Reads and writes -/

theorem memReadByte_eq_some {b : Buf} {off : Nat} {s : State} {v : Byte} :
    memReadByte b off s = some v ↔ off < b.size s.params ∧ v = s.byteAt b off := by
  unfold memReadByte
  split
  · rename_i h; simp [h, eq_comm]
  · rename_i h; simp [h]

theorem memReadBlock_eq_some {b : Buf} {off : Nat} {s : State} {c : Block} :
    memReadBlock b off s = some c ↔
      off + 16 ≤ b.size s.params ∧ c = Vector.ofFn fun j => s.byteAt b (off + j.val) := by
  unfold memReadBlock
  split
  · rename_i h; simp [h, eq_comm]
  · rename_i h; simp [h]

theorem memWrite_eq_some {b : Buf} {off : Nat} {v : List Byte} {s t : State} :
    memWrite b off v s = some t ↔
      off + v.length ≤ b.size s.params ∧ t = s.setBuf b (memStoreBytes b (s.buf b) off v) := by
  unfold memWrite
  split
  · rename_i h; simp [h, eq_comm]
  · rename_i h; simp [h]

theorem lastByte_eq_some {s : State} {v : Byte} :
    lastByte s = some v ↔ 0 < s.ctlen ∧ s.ctlen - 1 < s.params.ctMax ∧ v = s.byteAt .dec (s.ctlen - 1) := by
  unfold lastByte
  split
  · rename_i h; simp [h]
  · rename_i h
    rw [memReadByte_eq_some]
    simp [Buf.size, Nat.pos_of_ne_zero h]

theorem lastBlock_eq_some {s : State} {c : Block} :
    lastBlock s = some c ↔ 16 ≤ s.ctlen ∧ s.ctlen ≤ s.params.ctMax ∧
      c = Vector.ofFn fun j => s.byteAt .dec (s.ctlen - 16 + j.val) := by
  unfold lastBlock
  split
  · rename_i h
    simp only [reduceCtorEq, false_iff, not_and]
    intro h'; omega
  · rename_i h
    rw [memReadBlock_eq_some, Buf.size, Nat.sub_add_cancel (by omega)]
    simp [Nat.le_of_not_lt h]

/-! ### Sampling -/

theorem sampled_of_low {s : State} (h : s.engineFault = false) (e : StepResult) : sampled s e = e := by
  simp [sampled, h]

theorem sampled_of_high {s : State} (h : s.engineFault = true) (e : StepResult) :
    sampled s e = .next (raise .cipherEngineFailure s) := by simp [sampled, h]

theorem sampled_eq_next {s t : State} {e : StepResult} :
    sampled s e = .next t ↔
      (s.engineFault = true ∧ t = raise .cipherEngineFailure s) ∨ (s.engineFault = false ∧ e = .next t) := by
  cases h : s.engineFault
  · simp [sampled_of_low h]
  · simp [sampled_of_high h, eq_comm]

/-! ### Control transfers -/

theorem kexpEnd_cases (s : State) :
    (s.ki = 60#6 ∧ kexpEnd s = { s with phase := .loadblk, blk := 0 }) ∨ (s.ki ≠ 60#6 ∧ kexpEnd s = s) := by
  unfold kexpEnd
  by_cases h : s.ki = 60#6
  · exact .inl ⟨h, if_pos h⟩
  · exact .inr ⟨h, if_neg h⟩

theorem nextBlock_cases (s : State) :
    (s.blk + 1 < s.ctlen / 16 ∧ nextBlock s = { s with blk := s.blk + 1, phase := .loadblk }) ∨
      (¬ s.blk + 1 < s.ctlen / 16 ∧ nextBlock s = { s with phase := .padread }) := by
  unfold nextBlock blockCount
  by_cases h : s.blk + 1 < s.ctlen / 16
  · exact .inl ⟨h, if_pos h⟩
  · exact .inr ⟨h, if_neg h⟩

/-! ### The turns of the agents -/

/-- The sequencer performs the operation of the phase it is in. -/
theorem sequencerStep_eq (s : State) : sequencerStep s = exec s.phase.instr s := by
  unfold sequencerStep
  cases h : s.phase <;> rfl

/-- A write to `CTRL` is `START`, `CLEAR`, or nothing. -/
theorem hostCommand_cases (v : Byte) (s : State) :
    (v = 0x01#8 ∧ hostCommand v s = execStart s) ∨ (v = 0x02#8 ∧ hostCommand v s = execClear s) ∨
      (v ≠ 0x01#8 ∧ v ≠ 0x02#8 ∧ hostCommand v s = .next s) := by
  by_cases h1 : v = 0x01#8
  · subst h1; exact .inl ⟨rfl, rfl⟩
  · by_cases h2 : v = 0x02#8
    · subst h2; exact .inr (.inl ⟨rfl, rfl⟩)
    · refine .inr (.inr ⟨h1, h2, ?_⟩)
      simp only [hostCommand, decode, decodeCtrl, if_neg h1, if_neg h2]
      by_cases h0 : v = 0x00#8 <;> simp [h0]

theorem writeLength_next {v : Nat} {s new t : State} (h : writeLength v s new = .next t) :
    v < 2 ^ s.params.lenW ∧ ((isBusy s = true ∧ t = s) ∨ (isBusy s = false ∧ t = new)) := by
  unfold writeLength at h
  split at h
  · simp at h
  · rename_i hv
    refine ⟨by omega, ?_⟩
    split at h
    · rename_i hb; exact .inl ⟨hb, by simpa [eq_comm] using h⟩
    · rename_i hb; exact .inr ⟨by simpa using hb, by simpa [eq_comm] using h⟩

theorem writeLength_never_faults (v : Nat) (s new : State) (f : Fault) : writeLength v s new ≠ .fault f := by
  unfold writeLength
  split
  · simp
  · split <;> simp

theorem hostWriteByte_next {w : Window} {off : Nat} {v : Byte} {s t : State} (h : hostWriteByte w off v s = .next t) :
    off < windowSize w s.params ∧
      ((isBusy s = true ∧ t = s) ∨ (isBusy s = false ∧ t = windowStore w off v s)) := by
  unfold hostWriteByte at h
  split at h
  · simp at h
  · rename_i ho
    refine ⟨by omega, ?_⟩
    split at h
    · rename_i hb; exact .inl ⟨hb, by simpa [eq_comm] using h⟩
    · rename_i hb; exact .inr ⟨by simpa using hb, by simpa [eq_comm] using h⟩

theorem hostReadByte_next {w : Window} {off : Nat} {s t : State} (h : hostReadByte w off s = .next t) :
    off < windowSize w s.params ∧ t = { s with readData := some (.byte (windowByte w off s)) } := by
  unfold hostReadByte at h
  split at h
  · simp at h
  · rename_i ho
    exact ⟨by omega, by simpa [eq_comm] using h⟩

theorem hostReadReg_next {n : Nat} {s t : State} (h : hostReadReg n s = .next t) :
    ∃ v, regValue n s = some v ∧ t = { s with readData := some (.reg v) } := by
  unfold hostReadReg at h
  split at h
  · simp at h
  · rename_i v hv
    exact ⟨v, hv, by simpa [eq_comm] using h⟩

/-- A step is the sequencer's turn when nothing is queued, and the first queued event otherwise. -/
theorem step_nil {s : State} (h : s.inputs = []) : step s = sequencerStep s := by
  simp [step, nextStep, h]

theorem step_cons {s : State} {e : Event} {rest : List Event} (h : s.inputs = e :: rest) :
    step s = handle e { s with inputs := rest } := by
  simp [step, nextStep, h]

/-! ### Runs -/

theorem runSteps_next {s t : State} (h : step s = .next t) (n : Nat) : runSteps (n + 1) s = runSteps n t := by
  rw [runSteps, h]

theorem runSteps_add (m n : Nat) (s : State) : runSteps (m + n) s = (runSteps m s).bind (runSteps n) := by
  induction m generalizing s with
  | zero => simp [runSteps]
  | succ m ih =>
    rw [Nat.succ_add, runSteps, runSteps]
    cases step s with
    | next t => exact ih t
    | fault _ => rfl
    | refused _ => rfl

end Sys2Proof.Machine
end

