-- ==== Sys2Proof/Laws/PerInstr.lean ====
section
/-! SUPPORT. The family of statements made once per operation: the decoder gives back an operation from its own selector. -/

namespace Sys2Proof.Laws

/-- What the operation's selector, where it has one, decodes to. -/
def EncodingRoundTrip.Statement (i : Instr) : Prop := ∀ e, encode i = some e → decode e = .ok i

theorem EncodingRoundTrip.start : EncodingRoundTrip.Statement .start := by
  rintro _ ⟨⟩; decide

theorem EncodingRoundTrip.clear : EncodingRoundTrip.Statement .clear := by
  rintro _ ⟨⟩; decide

theorem EncodingRoundTrip.idle : EncodingRoundTrip.Statement .idle := by
  rintro _ ⟨⟩; decide

theorem EncodingRoundTrip.validate : EncodingRoundTrip.Statement .validate := by
  rintro _ ⟨⟩; decide

theorem EncodingRoundTrip.kexp : EncodingRoundTrip.Statement .kexp := by
  rintro _ ⟨⟩; decide

theorem EncodingRoundTrip.loadblk : EncodingRoundTrip.Statement .loadblk := by
  rintro _ ⟨⟩; decide

theorem EncodingRoundTrip.invcipher : EncodingRoundTrip.Statement .invcipher := by
  rintro _ ⟨⟩; decide

theorem EncodingRoundTrip.cbcxor : EncodingRoundTrip.Statement .cbcxor := by
  rintro _ ⟨⟩; decide

theorem EncodingRoundTrip.padread : EncodingRoundTrip.Statement .padread := by
  rintro _ ⟨⟩; decide

theorem EncodingRoundTrip.padrange : EncodingRoundTrip.Statement .padrange := by
  rintro _ ⟨⟩; decide

theorem EncodingRoundTrip.padlen : EncodingRoundTrip.Statement .padlen := by
  rintro _ ⟨⟩; decide

theorem EncodingRoundTrip.padfull : EncodingRoundTrip.Statement .padfull := by
  rintro _ ⟨⟩; decide

theorem EncodingRoundTrip.trunc : EncodingRoundTrip.Statement .trunc := by
  rintro _ ⟨⟩; decide

theorem EncodingRoundTrip.fail : EncodingRoundTrip.Statement .fail := by
  rintro _ ⟨⟩; decide

theorem EncodingRoundTrip.wipe : EncodingRoundTrip.Statement .wipe := by
  rintro _ ⟨⟩; decide

theorem EncodingRoundTrip.done : EncodingRoundTrip.Statement .done := by
  rintro _ ⟨⟩; decide

theorem EncodingRoundTrip.addrk (s k : Block) : EncodingRoundTrip.Statement (.addrk s k) := by
  rintro _ ⟨⟩

theorem EncodingRoundTrip.invshiftrows (s : Block) : EncodingRoundTrip.Statement (.invshiftrows s) := by
  rintro _ ⟨⟩

theorem EncodingRoundTrip.invsubbytes (s : Block) : EncodingRoundTrip.Statement (.invsubbytes s) := by
  rintro _ ⟨⟩

theorem EncodingRoundTrip.invmixcols (s : Block) : EncodingRoundTrip.Statement (.invmixcols s) := by
  rintro _ ⟨⟩

theorem EncodingRoundTrip.keyExpansionFn (key : Key) : EncodingRoundTrip.Statement (.keyExpansionFn key) := by
  rintro _ ⟨⟩

theorem EncodingRoundTrip.invCipherFn (c : Block) (w : Schedule) : EncodingRoundTrip.Statement (.invCipherFn c w) := by
  rintro _ ⟨⟩

theorem EncodingRoundTrip.cbcDecryptFn (w : Schedule) (iv : Block) (ct : List Byte) : EncodingRoundTrip.Statement (.cbcDecryptFn w iv ct) := by
  rintro _ ⟨⟩

theorem EncodingRoundTrip.unpadFn (dec : List Byte) : EncodingRoundTrip.Statement (.unpadFn dec) := by
  rintro _ ⟨⟩

theorem EncodingRoundTrip.decryptFn (key iv ct : List Byte) (fault : Bool) : EncodingRoundTrip.Statement (.decryptFn key iv ct fault) := by
  rintro _ ⟨⟩

end Sys2Proof.Laws
end

