-- ==== Sys2Proof/Tests/Slice0.lean ====
section
/-! SUPPORT. The model's own tests, with expected values from spec/95_test_vectors.md and the rules' worked examples, and for
every obligation with hypotheses a witness that meets them. -/

namespace Sys2Proof.Tests

-- Each of these theorems is a computation in the kernel: one at a time keeps the memory and the number of threads small.
set_option Elab.async false

open Sys2Proof Sys2Proof.Machine

/-! ### Helpers -/

/-- The next state, where there is one. -/
def nextOf : StepResult → Option State
  | .next s => some s
  | .fault _ => none
  | .refused _ => none

/-- The `n` bytes of a number written first byte first, as the vectors write byte sequences (R11). -/
def hex (n v : Nat) : List Byte := (List.range n).map fun j => BitVec.ofNat 8 (v >>> (8 * (n - 1 - j)))

/-- Sixteen bytes of a number, as a block. -/
def blockHex (v : Nat) : Block := Vector.ofFn fun j => BitVec.ofNat 8 (v >>> (8 * (15 - j.val)))

/-- A key of 32 zero bytes, `Z32` of the vectors. -/
def zeroKey : Key := Vector.replicate 32 0x00#8

/-- A small instance: `LEN_W = 8`, `CT_MAX = 32`. -/
def small : State := { State.reset with params := { lenW := 8, ctMax := 32 } }

/-- The small instance in a phase. -/
def atPhase (ph : Phase) : State := { small with phase := ph }

/-- The small instance in a phase of an accepted request of two blocks. -/
def accepted (ph : Phase) : State := { small with klen := 32, ivlen := 16, ctlen := 32, phase := ph }

/-- Bytes listed from offset 0. -/
def cells (bs : List Byte) : Memory := (List.range bs.length).map fun j => (j, bs.getD j 0x00#8)

/-- An accepted request of one block with bytes in `DEC` and a padding length in `P`. -/
def decrypted (ph : Phase) (p : Byte) (v : Nat) : State :=
  { accepted ph with ctlen := 16, p := p, dec := cells (hex 16 v) }

/-! ### Well-formedness: what each check refuses -/

theorem test_wf_cbc_not_whole_blocks : wholeBlocks (List.replicate 17 0#8) = false ∧
    (Instr.cbcDecryptFn zeroSchedule zeroBlock (List.replicate 17 0#8)).wf = false := by decide
theorem test_wf_cbc_empty : atLeastOneBlock [] = false ∧ (Instr.cbcDecryptFn zeroSchedule zeroBlock []).wf = false := by decide
theorem test_wf_unpad_short : (Instr.unpadFn (List.replicate 15 0#8)).wf = false := by decide

/-! ### Decoding: every selector of R61 and R64 written out -/

theorem test_decode_start : decode (.ctrl 0b00000001#8) = .ok .start := by decide
theorem test_decode_clear : decode (.ctrl 0b00000010#8) = .ok .clear := by decide
theorem test_decode_no_command : decode (.ctrl 0b00000000#8) = .error .noCommand := by decide
theorem test_decode_reserved_ctrl : decode (.ctrl 0x03#8) = .error .reservedCtrl ∧
    decode (.ctrl 0x81#8) = .error .reservedCtrl ∧ decode (.ctrl 0xFF#8) = .error .reservedCtrl := by decide
theorem test_decode_idle : decode (.phase 0b0000#4) = .ok .idle := by decide
theorem test_decode_validate : decode (.phase 0b0001#4) = .ok .validate := by decide
theorem test_decode_kexp : decode (.phase 0b0010#4) = .ok .kexp := by decide
theorem test_decode_loadblk : decode (.phase 0b0011#4) = .ok .loadblk := by decide
theorem test_decode_invcipher : decode (.phase 0b0100#4) = .ok .invcipher := by decide
theorem test_decode_cbcxor : decode (.phase 0b0101#4) = .ok .cbcxor := by decide
theorem test_decode_padread : decode (.phase 0b0110#4) = .ok .padread := by decide
theorem test_decode_padrange : decode (.phase 0b0111#4) = .ok .padrange := by decide
theorem test_decode_padlen : decode (.phase 0b1000#4) = .ok .padlen := by decide
theorem test_decode_padfull : decode (.phase 0b1001#4) = .ok .padfull := by decide
theorem test_decode_trunc : decode (.phase 0b1010#4) = .ok .trunc := by decide
theorem test_decode_fail : decode (.phase 0b1011#4) = .ok .fail := by decide
theorem test_decode_wipe : decode (.phase 0b1100#4) = .ok .wipe := by decide
theorem test_decode_done : decode (.phase 0b1101#4) = .ok .done := by decide
theorem test_decode_reserved_phase : decode (.phase 0b1110#4) = .error .reservedPhase ∧
    decode (.phase 0b1111#4) = .error .reservedPhase := by decide
theorem test_table_words : decodeTableWord 8 0x01 = some .start ∧ decodeTableWord 8 0x03 = none ∧
    decodeTableWord 4 13 = some .done ∧ decodeTableWord 4 14 = none ∧ decodeTableWord 16 1 = none := by decide

/-- The primitives and the functions have no selector (R72). -/
theorem test_pure_operations_not_encoded : encode (.addrk zeroBlock zeroBlock) = none ∧
    encode (.invshiftrows zeroBlock) = none ∧ encode (.invsubbytes zeroBlock) = none ∧
    encode (.invmixcols zeroBlock) = none ∧ encode (.keyExpansionFn zeroKey) = none ∧
    encode (.invCipherFn zeroBlock zeroSchedule) = none ∧ encode (.cbcDecryptFn zeroSchedule zeroBlock []) = none ∧
    encode (.unpadFn []) = none ∧ encode (.decryptFn [] [] [] false) = none := by decide

/-- A table row placed where the next step takes it from is the operation the next step runs. -/
theorem test_fetch_start : step (State.reset.withFetchWord 8 0x01) = exec .start State.reset := by rfl
theorem test_fetch_clear : step (State.reset.withFetchWord 8 0x02) = exec .clear State.reset := by rfl

/-! ### Field arithmetic (spec/95_test_vectors.md 3.2) -/

theorem test_xtime : xtime 0x57#8 = 0xAE#8 ∧ xtime 0x8E#8 = 0x07#8 ∧ xtime 0x80#8 = 0x1B#8 ∧ xtime 0xFF#8 = 0xE5#8 := by
  decide
theorem test_gfMul : gfMul 0x57#8 0x83#8 = 0xC1#8 ∧ gfMul 0x57#8 0x13#8 = 0xFE#8 ∧ gfMul 0x0E#8 0x80#8 = 0x41#8 := by
  decide +kernel
theorem test_gfInv : gfInv 0x00#8 = 0x00#8 ∧ gfInv 0x02#8 = 0x8D#8 ∧ gfInv 0x53#8 = 0xCA#8 ∧ gfInv 0xFF#8 = 0x1C#8 := by
  decide +kernel
theorem test_word_operations : rotWord 0x09CF4F3C#32 = 0xCF4F3C09#32 ∧ subWord 0xCF4F3C09#32 = 0x8A84EB01#32 ∧
    rconWord 7 = 0x40000000#32 := by decide +kernel

/-! ### The two commands -/

theorem test_start_from_idle : (nextOf (exec .start (atPhase .idle))).map (·.phase) = some .validate := by decide
theorem test_start_ignored_while_busy : nextOf (exec .start (accepted .wipe)) = some (accepted .wipe) := by decide
theorem test_clear_releases_response :
    (nextOf (exec .clear { atPhase .done with ptlen := 5, dec := cells (hex 5 0x68656c6c6f) })).map
      (fun t => (t.phase, t.ptlen, t.dec)) = some (.idle, 0, []) := by decide
theorem test_clear_ignored_while_busy : nextOf (exec .clear (accepted .kexp)) = some (accepted .kexp) := by decide

/-! ### The phases -/

theorem test_idle_rests : nextOf (exec .idle (atPhase .idle)) = some (atPhase .idle) := by decide
theorem test_done_rests : nextOf (exec .done (atPhase .done)) = some (atPhase .done) := by decide

/-- Three wrong lengths: the key wins (spec/95_test_vectors.md 3.1). -/
theorem test_validate_key_first : (nextOf (exec .validate { small with klen := 16, ivlen := 8, ctlen := 5 })).map
    (fun t => (t.errk, t.phase)) = some (.err .invalidKeyLength, .fail) := by decide
/-- 40 bytes on an instance of capacity 32: the shape check precedes the capacity check (3.1). -/
theorem test_validate_shape_before_capacity :
    (nextOf (exec .validate { small with klen := 32, ivlen := 16, ctlen := 40 })).map (·.errk) =
      some (.err .invalidCiphertextLength) ∧
    (nextOf (exec .validate { small with klen := 32, ivlen := 16, ctlen := 48 })).map (·.errk) =
      some (.err .cipherEngineFailure) := by decide

/-- The words of the zero key's schedule, from the table of R92, four a line. -/
def zeroKeyWords : Schedule := #v[
  0x00000000#32, 0x00000000#32, 0x00000000#32, 0x00000000#32, 0x00000000#32, 0x00000000#32, 0x00000000#32, 0x00000000#32,
  0x62636363#32, 0x62636363#32, 0x62636363#32, 0x62636363#32, 0xaafbfbfb#32, 0xaafbfbfb#32, 0xaafbfbfb#32, 0xaafbfbfb#32,
  0x6f6c6ccf#32, 0x0d0f0fac#32, 0x6f6c6ccf#32, 0x0d0f0fac#32, 0x7d8d8d6a#32, 0xd7767691#32, 0x7d8d8d6a#32, 0xd7767691#32,
  0x5354edc1#32, 0x5e5be26d#32, 0x31378ea2#32, 0x3c38810e#32, 0x968a81c1#32, 0x41fcf750#32, 0x3c717a3a#32, 0xeb070cab#32,
  0x9eaa8f28#32, 0xc0f16d45#32, 0xf1c6e3e7#32, 0xcdfe62e9#32, 0x2b312bdf#32, 0x6acddc8f#32, 0x56bca6b5#32, 0xbdbbaa1e#32,
  0x6406fd52#32, 0xa4f79017#32, 0x553173f0#32, 0x98cf1119#32, 0x6dbba90b#32, 0x07767584#32, 0x51cad331#32, 0xec71792f#32,
  0xe7b0e89c#32, 0x4347788b#32, 0x16760b7b#32, 0x8eb91a62#32, 0x74ed0ba1#32, 0x739b7e25#32, 0x2251ad14#32, 0xce20d43b#32,
  0x10f80a17#32, 0x53bf729c#32, 0x45c979e7#32, 0xcb706385#32]

theorem test_kexp_word_12 : (nextOf (exec .kexp { accepted .kexp with ki := 12#6, w := zeroKeyWords.set! 12 0#32 })).map
    (fun t => (t.w[12]!, t.ki)) = some (0xaafbfbfb#32, 13#6) := by decide +kernel
theorem test_kexp_last_word : (nextOf (exec .kexp { accepted .kexp with ki := 59#6, w := zeroKeyWords.set! 59 0#32 })).map
    (fun t => (t.w[59]!, t.phase, t.blk)) = some (0xcb706385#32, .loadblk, 0) := by decide +kernel

/-- With `CTLEN = 32` and `BLK = 1` it reads `CTBUF[16 .. 32)` (R106). -/
theorem test_loadblk_second_block :
    (nextOf (exec .loadblk { accepted .loadblk with blk := 1, ctbuf := cells (hex 32 0x64bac78bf92341822f9cb229d519900698b38444d6594904f0baa0f6c15f5e02) })).map
      (fun t => (t.sreg, t.cur, t.rnd)) =
      some (blockHex 0x98b38444d6594904f0baa0f6c15f5e02, blockHex 0x98b38444d6594904f0baa0f6c15f5e02, 14#4) := by
  decide +kernel

/-- The steps with `RND = 1` and `RND = 0` of the "hello" block (spec/95_test_vectors.md 1.8). -/
theorem test_invcipher_round_1 :
    (nextOf (exec .invcipher { accepted .invcipher with
      w := zeroKeyWords, rnd := 1#4, sreg := blockHex 0x6866c1e3e324e3ee53946e1a0c6e3f53 })).map
      (fun t => (t.sreg, t.rnd)) = some (blockHex 0x452b2b2ba82b2b502b2b502b2b4d2b2b, 0#4) := by decide +kernel
theorem test_invcipher_final_round :
    (nextOf (exec .invcipher { accepted .invcipher with
      w := zeroKeyWords, rnd := 0#4, sreg := blockHex 0x452b2b2ba82b2b502b2b502b2b4d2b2b })).map
      (fun t => (t.sreg, t.phase)) = some (blockHex 0x68656c6c6f0b0b0b0b0b0b0b0b0b0b0b, .cbcxor) := by decide +kernel

/-- The second example of R107, with another block to come. -/
theorem test_cbcxor_chains :
    (nextOf (exec .cbcxor { accepted .cbcxor with
      sreg := blockHex 0xf4c9c783d5d0cfc4c389c8d9c3dac08f
      prev := blockHex 0xa0a1a2a3a4a5a6a7a8a9aaabacadaeaf
      cur := blockHex 0x64bac78bf92341822f9cb229d5199006 })).map (fun t => (t.dec, t.prev, t.blk, t.phase)) =
      some (cells (hex 16 0x54686520717569636b2062726f776e20), blockHex 0x64bac78bf92341822f9cb229d5199006, 1, .loadblk) := by
  decide +kernel
/-- The last block: to the validator. -/
theorem test_cbcxor_last_block :
    (nextOf (exec .cbcxor { accepted .cbcxor with blk := 1 })).map (fun t => (t.blk, t.phase)) = some (1, .padread) := by
  decide +kernel

theorem test_padread_hello :
    (nextOf (exec .padread (decrypted .padread 0 0x68656c6c6f0b0b0b0b0b0b0b0b0b0b0b))).map (·.p) = some 0x0B#8 := by
  decide +kernel
theorem test_padrange_bounds :
    (nextOf (exec .padrange (decrypted .padrange 16 0))).map (·.phase) = some .padlen ∧
    (nextOf (exec .padrange (decrypted .padrange 17 0))).map (·.phase) = some .fail := by decide +kernel
theorem test_padrange_zero : (nextOf (exec .padrange (decrypted .padrange 0 0))).map (fun t => (t.errk, t.phase)) =
    some (.err .invalidPadding, .fail) := by decide +kernel
theorem test_padlen_equality : (nextOf (exec .padlen (decrypted .padlen 16 0))).map (·.phase) = some .padfull := by
  decide +kernel
/-- Five trailing bytes of 4 with `P = 4` pass; three of the last four do not (R118). -/
theorem test_padfull_five_of_four :
    (nextOf (exec .padfull (decrypted .padfull 4 0x101112131415161718191a0404040404))).map (·.phase) = some .trunc := by
  decide +kernel
theorem test_padfull_three_of_four :
    (nextOf (exec .padfull (decrypted .padfull 4 0x101112131415161718191a1b04050404))).map (fun t => (t.errk, t.phase)) =
      some (.err .invalidPadding, .fail) := by decide +kernel
theorem test_trunc_hello :
    (nextOf (exec .trunc (decrypted .trunc 11 0x68656c6c6f0b0b0b0b0b0b0b0b0b0b0b))).map (fun t => (t.ptlen, t.phase)) =
      some (5, .wipe) := by decide +kernel
theorem test_fail_clears_length : (nextOf (exec .fail { accepted .fail with ptlen := 7 })).map
    (fun t => (t.ptlen, t.phase)) = some (0, .wipe) := by decide

/-- After the "hello" request `DEC[0 .. 5)` is the plaintext and the rest is zero (R135). -/
theorem test_wipe_hello :
    (nextOf (exec .wipe { decrypted .wipe 11 0x68656c6c6f0b0b0b0b0b0b0b0b0b0b0b with
      ptlen := 5, keybuf := [(31, 0x01#8)], w := zeroKeyWords })).map
      (fun t => (t.dec, t.keybuf, t.w[59]!, t.status, t.phase)) =
      some (cells (hex 5 0x68656c6c6f), [], 0#32, .ok, .done) := by decide +kernel
/-- After a failed request all of `DEC` is zero. -/
theorem test_wipe_failure :
    (nextOf (exec .wipe { decrypted .wipe 17 0x101112131415161718191a1b1c1d1e11 with errk := .err .invalidPadding })).map
      (fun t => (t.dec, t.status, t.errk)) = some ([], .err .invalidPadding, .ok) := by decide +kernel

/-! ### The round primitives (spec/95_test_vectors.md 3.4) -/

theorem test_addrk : (nextOf (exec (.addrk (blockHex 0x000102030405060708090a0b0c0d0e0f)
    (blockHex 0xffeeddccbbaa99887766554433221100)) small)).map (·.pureValue) =
    some (some (.block (blockHex 0xffefdfcfbfaf9f8f7f6f5f4f3f2f1f0f))) := by decide +kernel
theorem test_invshiftrows : (nextOf (exec (.invshiftrows (blockHex 0x000102030405060708090a0b0c0d0e0f)) small)).map
    (·.pureValue) = some (some (.block (blockHex 0x000d0a0704010e0b0805020f0c090603))) := by decide +kernel
theorem test_invsubbytes : (nextOf (exec (.invsubbytes (blockHex 0x000102030405060708090a0b0c0d0e0f)) small)).map
    (·.pureValue) = some (some (.block (blockHex 0x52096ad53036a538bf40a39e81f3d7fb))) := by decide +kernel
theorem test_invmixcols : (nextOf (exec (.invmixcols (blockHex 0x000102030405060708090a0b0c0d0e0f)) small)).map
    (·.pureValue) = some (some (.block (blockHex 0x0a0f080d0e0b0c090207000506030401))) := by decide +kernel
theorem test_invmixcols_columns : invMixCols (blockHex 0x046681e5e0cb199a48f8d37a2806264c) =
    blockHex 0xd4bf5d30e0b452aeb84111f11e2798e5 := by decide +kernel

/-! ### The functions -/

/-- All sixty words of the zero key's schedule (R92). -/
theorem test_keyExpansion_zero_key : keyExpansion zeroKey = zeroKeyWords := by
  simp only [keyExpansion, expandFrom, expandWord, expandTemp, subWord, sbox_eq_table]
  decide +kernel

/-- A row of `INVMIXCOLS` by doublings (R78), which the kernel evaluates quickly. -/
def invMixRowDoubling (a0 a1 a2 a3 : Byte) (r : Nat) : Byte :=
  let m9 := fun a => xtime (xtime (xtime a)) ^^^ a
  let mB := fun a => xtime (xtime (xtime a)) ^^^ xtime a ^^^ a
  let mD := fun a => xtime (xtime (xtime a)) ^^^ xtime (xtime a) ^^^ a
  let mE := fun a => xtime (xtime (xtime a)) ^^^ xtime (xtime a) ^^^ xtime a
  match r with
  | 0 => mE a0 ^^^ mB a1 ^^^ mD a2 ^^^ m9 a3
  | 1 => m9 a0 ^^^ mE a1 ^^^ mB a2 ^^^ mD a3
  | 2 => mD a0 ^^^ m9 a1 ^^^ mE a2 ^^^ mB a3
  | _ => mB a0 ^^^ mD a1 ^^^ m9 a2 ^^^ mE a3

theorem invMixRow_eq_doubling : invMixRow = invMixRowDoubling := by
  funext a0 a1 a2 a3 r
  match r with
  | 0 => simp only [invMixRow, invMixRowDoubling, gfMul_09, gfMul_0B, gfMul_0D, gfMul_0E]
  | 1 => simp only [invMixRow, invMixRowDoubling, gfMul_09, gfMul_0B, gfMul_0D, gfMul_0E]
  | 2 => simp only [invMixRow, invMixRowDoubling, gfMul_09, gfMul_0B, gfMul_0D, gfMul_0E]
  | r + 3 => simp only [invMixRow, invMixRowDoubling, gfMul_09, gfMul_0B, gfMul_0D, gfMul_0E]

/-- The "hello" ciphertext block under the zero key (spec/95_test_vectors.md 3.5). -/
theorem test_invCipher_hello : invCipher (blockHex 0xc235de24d239e03cc8e377c604fca67b) zeroKeyWords =
    blockHex 0x68656c6c6f0b0b0b0b0b0b0b0b0b0b0b := by
  simp only [invCipher, invRounds, invFinalRound, invRound, invMixCols, invSubBytes, invMixRow_eq_doubling,
    invSbox_eq_table]
  decide +kernel

/-- One block is chained to the IV alone. -/
theorem cbcDecrypt_one_block (w : Schedule) (iv : Block) (ct : List Byte) (h : ct.length = 16) :
    cbcDecrypt w iv ct = (xorBlock (invCipher (blockOf ct 0) w) iv).toList := by
  simp [cbcDecrypt, h, decBlock, chainBlock]

theorem test_cbcDecrypt_hello : cbcDecrypt zeroKeyWords zeroBlock (hex 16 0xc235de24d239e03cc8e377c604fca67b) =
    hex 16 0x68656c6c6f0b0b0b0b0b0b0b0b0b0b0b := by
  rw [cbcDecrypt_one_block _ _ _ (by decide),
    show blockOf (hex 16 0xc235de24d239e03cc8e377c604fca67b) 0 = blockHex 0xc235de24d239e03cc8e377c604fca67b by decide +kernel,
    test_invCipher_hello]
  decide +kernel

/-- The strict policy on three of its vectors (3.7). -/
theorem test_unpad : unpad (hex 16 0x68656c6c6f0b0b0b0b0b0b0b0b0b0b0b) = .ok (hex 5 0x68656c6c6f) ∧
    unpad (hex 16 0x10101010101010101010101010101010) = .ok [] ∧
    unpad (hex 16 0x0f101010101010101010101010101010) = .err .invalidPadding := by decide +kernel
theorem test_unpad_policies_differ : unpad (hex 16 0x101112131415161718191a1b04050404) = .err .invalidPadding ∧
    unpadLastByteOnly (hex 16 0x101112131415161718191a1b04050404) = .ok (hex 12 0x101112131415161718191a1b) := by
  decide +kernel

/-- D0's concrete scenario (1.8). -/
theorem test_decrypt_hello : decrypt 32 zeroKey.toList zeroBlock.toList (hex 16 0xc235de24d239e03cc8e377c604fca67b) false =
    .ok (hex 5 0x68656c6c6f) := by
  have hk : keyOfBytes zeroKey.toList = zeroKey := by decide +kernel
  have hi : blockOf zeroBlock.toList 0 = zeroBlock := by decide +kernel
  have hl : (hex 16 0xc235de24d239e03cc8e377c604fca67b).length = 16 := by decide
  simp only [decrypt, hl, hk, hi, test_keyExpansion_zero_key, test_cbcDecrypt_hello, test_unpad.1]
  decide
theorem test_decrypt_priorities : decrypt 32 (List.replicate 33 0) [] [] true = .err .invalidKeyLength ∧
    decrypt 32 (List.replicate 32 0) (List.replicate 16 0) (List.replicate 48 0) false = .err .cipherEngineFailure ∧
    decrypt 32 (List.replicate 32 0) (List.replicate 16 0) (List.replicate 16 0) true = .err .cipherEngineFailure := by
  decide +kernel

/-! ### Witnesses: for every obligation with hypotheses, and for each of its clauses, values that meet them -/

/-- A state of the small instance with empty buffers meets the invariant when its phase's condition holds. -/
theorem inv_of_empty_buffers {s : State} (hp : s.params = small.params) (hk : s.keybuf = []) (hi : s.ivbuf = [])
    (hc : s.ctbuf = []) (hd : s.dec = []) (h1 : s.klen < 256) (h2 : s.ivlen < 256) (h3 : s.ctlen < 256)
    (h : PhaseInv s) : Inv s := by
  refine ⟨by rw [hp]; decide, fun b => ?_, fun b => ?_, by rw [hp]; exact h1, by rw [hp]; exact h2, by rw [hp]; exact h3, h⟩
  · cases b <;> simp [State.buf, hk, hi, hc, hd, Memory.wf]
  · cases b <;> simp [State.buf, hk, hi, hc, hd, Memory.within]

theorem quiet_of_reset {s : State} (h : (s.w, s.sreg, s.prev, s.cur, s.p, s.blk, s.rnd, s.ki) =
    (zeroSchedule, zeroBlock, zeroBlock, zeroBlock, 0x00#8, 0, 0#4, 0#6)) : Quiet s := by
  simp only [Prod.mk.injEq] at h
  obtain ⟨h1, h2, h3, h4, h5, h6, h7, h8⟩ := h
  exact ⟨h1, h2, h3, h4, h5, h6, h7, h8⟩

/-- `IDLE` with a queue. -/
def idleWith (es : List Event) : State := { small with inputs := es }

theorem inv_idleWith (es : List Event) : Inv (idleWith es) :=
  inv_of_empty_buffers rfl rfl rfl rfl rfl (show 0 < 256 by decide) (show 0 < 256 by decide) (show 0 < 256 by decide)
    ⟨quiet_of_reset rfl, ⟨rfl, rfl⟩, rfl⟩

/-- `VALIDATE` with lengths and a queue. -/
def validating (klen ivlen ctlen : Nat) (es : List Event) : State :=
  { atPhase .validate with klen := klen, ivlen := ivlen, ctlen := ctlen, inputs := es }

theorem inv_validating {klen ivlen ctlen : Nat} (h1 : klen < 256) (h2 : ivlen < 256) (h3 : ctlen < 256) (es : List Event) :
    Inv (validating klen ivlen ctlen es) :=
  inv_of_empty_buffers rfl rfl rfl rfl rfl h1 h2 h3 ⟨quiet_of_reset rfl, ⟨rfl, rfl⟩, rfl⟩

theorem witness_DecodeEncodeAgree : ∃ (i : Instr) (e : Selector), i.wf = true ∧ encode i = some e :=
  ⟨.done, .phase 0b1101#4, by decide⟩

theorem witness_EachSelectorHasOneMeaning : (∃ (e : Selector) (i : Instr), decode e = .ok i) ∧
    (∀ v : BitVec 8, v = 0x03#8 ∨ v = 0xFF#8 → 3 ≤ v.toNat) ∧ (∀ v : BitVec 4, v = 14#4 ∨ v = 15#4 → 14 ≤ v.toNat) :=
  ⟨⟨.ctrl 0x02#8, .clear, by decide⟩, by rintro v (rfl | rfl) <;> decide, by rintro v (rfl | rfl) <;> decide⟩

theorem witness_StepRunsDecodedOperation :
    (∃ (s : State) (rest : List Event) (v : Nat) (i : Instr), s.inputs = .writeReg 0 v :: rest ∧ v < 256 ∧
      decode (.ctrl (BitVec.ofNat 8 v)) = .ok i) ∧
    (∃ (s : State) (i : Instr), s.inputs = [] ∧ decode (.phase s.phase.code) = .ok i) ∧
    (∃ (s : State) (rest : List Event) (i : Instr), s.inputs = .tick :: rest ∧ decode (.phase s.phase.code) = .ok i) :=
  ⟨⟨idleWith [.writeReg 0 2], [], 2, .clear, by decide⟩, ⟨atPhase .kexp, .kexp, by decide⟩,
    ⟨idleWith [.tick], [], .idle, by decide⟩⟩

theorem witness_UnusedCtrlValuesIgnored (v : Nat) (h : v = 0 ∨ v = 3 ∨ v = 255) :
    ∃ (s : State) (rest : List Event), s.inputs = .writeReg 0 v :: rest ∧ v < 256 ∧ v ≠ 1 ∧ v ≠ 2 :=
  ⟨idleWith [.writeReg 0 v], [], rfl, by omega, by omega, by omega⟩

theorem witness_commands : (∃ s : State, s.phase = .idle) ∧ (∃ s : State, s.phase = .done) ∧
    (∃ s : State, isBusy s = true) ∧ (∃ s : State, isBusy s = false) ∧ (∃ s : State, s.phase ≠ .done) :=
  ⟨⟨atPhase .idle, rfl⟩, ⟨atPhase .done, rfl⟩, ⟨atPhase .wipe, rfl⟩, ⟨atPhase .done, rfl⟩, ⟨atPhase .idle, by decide⟩⟩

theorem witness_ValidateChecksInOrder :
    (∃ s : State, s.klen ≠ 32) ∧ (∃ s : State, s.klen = 32 ∧ s.ivlen ≠ 16) ∧
    (∃ s : State, s.klen = 32 ∧ s.ivlen = 16 ∧ s.ctlen = 0) ∧
    (∃ s : State, s.klen = 32 ∧ s.ivlen = 16 ∧ s.ctlen % 16 ≠ 0) ∧
    (∃ s : State, s.klen = 32 ∧ s.ivlen = 16 ∧ s.ctlen ≠ 0 ∧ s.ctlen % 16 = 0 ∧ s.params.ctMax < s.ctlen) ∧
    (∃ s : State, s.klen = 32 ∧ s.ivlen = 16 ∧ s.ctlen ≠ 0 ∧ s.ctlen % 16 = 0 ∧ s.ctlen ≤ s.params.ctMax) :=
  ⟨⟨validating 31 16 16 [], by decide⟩, ⟨validating 32 15 16 [], by decide⟩, ⟨validating 32 16 0 [], by decide⟩,
    ⟨validating 32 16 17 [], by decide⟩, ⟨validating 32 16 48 [], by decide⟩, ⟨validating 32 16 32 [], by decide⟩⟩

theorem witness_KexpStepComputesOneWord :
    (∃ s : State, s.engineFault = false ∧ s.ki = 0#6) ∧
    (∀ k : Nat, k = 8 ∨ k = 12 ∨ k = 59 → ∃ s : State, s.engineFault = false ∧ s.ki.toNat = k ∧ 8 ≤ k ∧ k < 60) := by
  refine ⟨⟨accepted .kexp, by decide⟩, ?_⟩
  rintro k (rfl | rfl | rfl)
  · exact ⟨{ accepted .kexp with ki := 8#6 }, by decide⟩
  · exact ⟨{ accepted .kexp with ki := 12#6 }, by decide⟩
  · exact ⟨{ accepted .kexp with ki := 59#6 }, by decide⟩

theorem witness_KexpPhaseComputesKeyExpansion : ∃ s : State, s.phase = .kexp ∧ s.ki = 0#6 ∧ s.inputs = [] ∧
    s.engineFault = false := ⟨accepted .kexp, by decide⟩

/-- The index ranges of the recurrence, each at its ends. -/
theorem witness_KeyExpansionSatisfiesRecurrence :
    (∀ i : Nat, i = 8 ∨ i = 56 → 8 ≤ i ∧ i < 60 ∧ i % 8 = 0) ∧ (∀ i : Nat, i = 12 ∨ i = 52 → 8 ≤ i ∧ i < 60 ∧ i % 8 = 4) ∧
    (∀ i : Nat, i = 9 ∨ i = 59 → 8 ≤ i ∧ i < 60 ∧ i % 8 ≠ 0 ∧ i % 8 ≠ 4) := by
  refine ⟨?_, ?_, ?_⟩ <;> rintro i (rfl | rfl) <;> decide

theorem witness_FirstTwoRoundKeysAreTheKey : ∃ j : Nat, j < 16 := ⟨15, by decide⟩

theorem witness_LoadblkTakesCiphertextBlock : ∃ s : State, s.engineFault = false ∧ 16 * s.blk + 16 ≤ s.params.ctMax :=
  ⟨{ accepted .loadblk with blk := 1 }, by decide⟩

theorem witness_InvcipherStepIsOneRound : (∃ s : State, s.engineFault = false ∧ s.rnd = 14#4) ∧
    (∀ k : Nat, k = 1 ∨ k = 13 → ∃ s : State, s.engineFault = false ∧ s.rnd.toNat = k ∧ 1 ≤ k ∧ k ≤ 13) ∧
    (∃ s : State, s.engineFault = false ∧ s.rnd = 0#4) := by
  refine ⟨⟨{ accepted .invcipher with rnd := 14#4 }, by decide⟩, ?_, ⟨accepted .invcipher, by decide⟩⟩
  rintro k (rfl | rfl)
  · exact ⟨{ accepted .invcipher with rnd := 1#4 }, by decide⟩
  · exact ⟨{ accepted .invcipher with rnd := 13#4 }, by decide⟩

theorem witness_InvcipherPhaseComputesInvCipher : ∃ s : State, s.phase = .invcipher ∧ s.rnd = 14#4 ∧ s.inputs = [] ∧
    s.engineFault = false := ⟨{ accepted .invcipher with rnd := 14#4 }, by decide⟩

/-- Block 1 of two, the last that fits, and block 0, which has a successor. -/
theorem witness_CbcxorStoresDecryptedBlock (b : Nat) (h : b = 0 ∨ b = 1) : ∃ s : State, s.blk = b ∧ s.engineFault = false ∧
    Memory.wf .dec s.dec ∧ 16 * s.blk + 16 ≤ s.params.ctMax := by
  rcases h with rfl | rfl
  · exact ⟨accepted .cbcxor, by decide⟩
  · exact ⟨{ accepted .cbcxor with blk := 1, dec := cells (hex 16 0x54686520717569636b2062726f776e20) }, by decide +kernel⟩

theorem witness_BlockTakesSeventeenSteps : ∃ (s : State) (cb : Block), s.phase = .loadblk ∧ s.inputs = [] ∧
    s.engineFault = false ∧ Memory.wf .dec s.dec ∧ 16 * s.blk + 16 ≤ s.params.ctMax ∧
    ∀ j, j < 16 → cb[j]! = s.byteAt .ctbuf (16 * s.blk + j) :=
  ⟨{ accepted .loadblk with blk := 1, ctbuf := cells (hex 32 0x64bac78bf92341822f9cb229d519900698b38444d6594904f0baa0f6c15f5e02) },
    blockHex 0x98b38444d6594904f0baa0f6c15f5e02, by decide, by decide, by decide, by decide, by decide, by decide +kernel⟩

theorem witness_PadreadTakesLastByte (n : Nat) (h : n = 1 ∨ n = 32) : ∃ s : State, s.ctlen = n ∧ 1 ≤ s.ctlen ∧
    s.ctlen ≤ s.params.ctMax := by
  rcases h with rfl | rfl
  · exact ⟨{ accepted .padread with ctlen := 1 }, by decide⟩
  · exact ⟨accepted .padread, by decide⟩

theorem witness_PadrangeChecksOneToSixteen : (∀ p : Byte, p = 1#8 ∨ p = 16#8 → 1 ≤ p.toNat ∧ p.toNat ≤ 16) ∧
    (∀ p : Byte, p = 0#8 ∨ p = 17#8 ∨ p = 255#8 → p.toNat < 1 ∨ 16 < p.toNat) := by
  constructor
  · rintro p (rfl | rfl) <;> decide
  · rintro p (rfl | rfl | rfl) <;> decide

theorem witness_PadlenChecksLength : (∃ s : State, s.p.toNat ≤ s.ctlen) ∧ (∃ s : State, s.ctlen < s.p.toNat) :=
  ⟨⟨decrypted .padlen 16 0, by decide⟩, ⟨decrypted .padlen 17 0, by decide⟩⟩

theorem witness_PadfullChecksEveryPaddingByte :
    (∃ s : State, 16 ≤ s.ctlen ∧ s.ctlen ≤ s.params.ctMax ∧
      ∀ j, 1 ≤ j → j ≤ 16 → j ≤ s.p.toNat → s.byteAt .dec (s.ctlen - j) = s.p) ∧
    (∃ s : State, 16 ≤ s.ctlen ∧ s.ctlen ≤ s.params.ctMax ∧
      ∃ j, 1 ≤ j ∧ j ≤ 16 ∧ j ≤ s.p.toNat ∧ s.byteAt .dec (s.ctlen - j) ≠ s.p) :=
  ⟨⟨decrypted .padfull 16 0x10101010101010101010101010101010, by decide, by decide, by decide +kernel⟩,
    ⟨decrypted .padfull 16 0x0f101010101010101010101010101010, by decide, by decide, 16, by decide +kernel⟩⟩

theorem witness_TruncSetsPlaintextLength : ∃ s : State, s.p.toNat ≤ s.ctlen := ⟨decrypted .trunc 16 0, by decide⟩

theorem witness_WipeZeroesSecrets :
    (∃ s : State, Memory.wf .keybuf s.keybuf ∧ Memory.wf .ivbuf s.ivbuf ∧ s.errk ≠ .ok) ∧
    (∃ s : State, Memory.wf .keybuf s.keybuf ∧ Memory.wf .ivbuf s.ivbuf ∧ s.errk = .ok) :=
  ⟨⟨{ accepted .wipe with keybuf := [(31, 0x01#8)], errk := .err .invalidPadding }, by decide⟩,
    ⟨{ accepted .wipe with ivbuf := [(0, 0xFF#8), (15, 0x01#8)] }, by decide⟩⟩

theorem witness_EngineFaultSampledInCryptographicPhases :
    (∃ (s : State) (i : Instr), s.engineFault = true ∧ (i = .kexp ∨ i = .loadblk ∨ i = .invcipher ∨ i = .cbcxor)) ∧
    (∃ s t : State, s.engineFault = true ∧ exec .validate s = .next t) ∧
    (∃ s t : State, s.engineFault = true ∧ exec .wipe s = .next t) ∧
    (∃ (s : State) (rest : List Event) (level : Bool), s.inputs = .engineFault level :: rest ∧ s.engineFault ≠ level) :=
  ⟨⟨{ accepted .cbcxor with engineFault := true }, .cbcxor, by decide⟩,
    ⟨{ accepted .validate with engineFault := true },
      { accepted .kexp with engineFault := true, prev := ivOperand (accepted .validate) }, rfl, rfl⟩,
    ⟨{ accepted .wipe with engineFault := true }, _, rfl, rfl⟩,
    ⟨{ accepted .kexp with inputs := [.engineFault true, .tick] }, [.tick], true, by decide⟩⟩

theorem witness_ErrorReportsOnlyItsKind (k : ErrorKind) :
    ∃ s : State, Inv s ∧ s.phase = .fail ∧ s.errk = .err k ∧ s.inputs = [] :=
  ⟨{ accepted .fail with errk := .err k },
    inv_of_empty_buffers rfl rfl rfl rfl rfl (show 32 < 256 by decide) (show 16 < 256 by decide) (show 32 < 256 by decide)
      ⟨rfl, by simp, rfl⟩, rfl, rfl, rfl⟩

theorem witness_RejectedRequestDoesNoCipherWork :
    (∃ s : State, Inv s ∧ s.phase = .validate ∧ s.inputs = [] ∧ s.klen ≠ 32) ∧
    (∃ s : State, Inv s ∧ s.phase = .validate ∧ s.inputs = [] ∧ s.ivlen ≠ 16) ∧
    (∃ s : State, Inv s ∧ s.phase = .validate ∧ s.inputs = [] ∧ s.ctlen = 0) ∧
    (∃ s : State, Inv s ∧ s.phase = .validate ∧ s.inputs = [] ∧ s.ctlen % 16 ≠ 0) ∧
    (∃ s : State, Inv s ∧ s.phase = .validate ∧ s.inputs = [] ∧ s.params.ctMax < s.ctlen) :=
  ⟨⟨validating 33 16 16 [], inv_validating (by decide) (by decide) (by decide) [], rfl, rfl, by decide⟩,
    ⟨validating 32 17 16 [], inv_validating (by decide) (by decide) (by decide) [], rfl, rfl, by decide⟩,
    ⟨validating 32 16 0 [], inv_validating (by decide) (by decide) (by decide) [], rfl, rfl, by decide⟩,
    ⟨validating 32 16 15 [], inv_validating (by decide) (by decide) (by decide) [], rfl, rfl, by decide⟩,
    ⟨validating 32 16 48 [], inv_validating (by decide) (by decide) (by decide) [], rfl, rfl, by decide⟩⟩

theorem witness_ResetLeavesResetState : ∃ (s : State) (rest : List Event), s.inputs = .reset :: rest :=
  ⟨{ accepted .invcipher with inputs := [.reset, .tick] }, [.tick], rfl⟩

theorem witness_ClearedRequestLeavesResetState :
    ∃ s : State, Inv s ∧ s.phase = .wipe ∧ s.inputs = [.tick, .writeReg 0 0x02] :=
  ⟨{ accepted .wipe with inputs := [.tick, .writeReg 0 0x02], ptlen := 31 },
    inv_of_empty_buffers rfl rfl rfl rfl rfl (by decide) (by decide) (by decide) ⟨rfl, by decide, by intro h; exact absurd rfl h⟩,
    rfl, rfl⟩

/-- Byte positions, rows and columns at the ends of their ranges; a byte with its preimage; a column of four equal bytes. -/
theorem witness_primitives : (∃ j : Nat, j < 16) ∧ (∃ r c : Nat, r < 4 ∧ c < 4) ∧
    (∃ (b : Block) (y : Byte), sbox y = b[15]!) ∧
    (∃ (b : Block) (c : Nat) (v : Byte), c < 4 ∧ ∀ i, i < 4 → b[4 * c + i]! = v) ∧ (∃ r : Nat, 1 ≤ r ∧ r ≤ 13) :=
  ⟨⟨15, by decide⟩, ⟨3, 3, by decide⟩, ⟨Vector.replicate 16 0x63#8, 0x00#8, by decide +kernel⟩,
    ⟨Vector.replicate 16 0x01#8, 3, 0x01#8, by decide⟩, ⟨13, by decide⟩⟩

theorem witness_CbcDecryptFnChainsBlocks : ∃ (ct : List Byte) (i : Nat) (cb : Block), 16 ≤ ct.length ∧ ct.length % 16 = 0 ∧
    16 * i < ct.length ∧ ∀ j, j < 16 → cb[j]! = ct[16 * i + j]! :=
  ⟨hex 32 0x64bac78bf92341822f9cb229d519900698b38444d6594904f0baa0f6c15f5e02, 1, blockHex 0x98b38444d6594904f0baa0f6c15f5e02,
    by decide +kernel⟩

/-- The verdicts on a padding of 1 and of 16, a last byte of 0 and of 17, and a mismatch. -/
theorem witness_UnpadFnIsStrict :
    (∀ (v : Nat), v = 0x101112131415161718191a1b1c1d1e01 ∨ v = 0x10101010101010101010101010101010 →
      ∃ (dec : List Byte) (p : Byte), 16 ≤ dec.length ∧ p = dec[dec.length - 1]! ∧ dec = hex 16 v ∧
        1 ≤ p.toNat ∧ p.toNat ≤ 16 ∧ ∀ j, 1 ≤ j → j ≤ p.toNat → dec[dec.length - j]! = p) ∧
    (∀ (v : Nat), v = 0x101112131415161718191a1b1c1d1e00 ∨ v = 0x101112131415161718191a1b1c1d1e11 →
      ∃ (dec : List Byte) (p : Byte), 16 ≤ dec.length ∧ p = dec[dec.length - 1]! ∧ dec = hex 16 v ∧
        (p.toNat < 1 ∨ 16 < p.toNat)) ∧
    (∃ (dec : List Byte) (p : Byte), 16 ≤ dec.length ∧ p = dec[dec.length - 1]! ∧
      ∃ j, 1 ≤ j ∧ j ≤ p.toNat ∧ dec[dec.length - j]! ≠ p) := by
  refine ⟨?_, ?_, ⟨hex 16 0x101112131415161718191a1b04050404, 4#8, by decide, by decide +kernel, 3, by decide +kernel⟩⟩
  · rintro v (rfl | rfl)
    · exact ⟨hex 16 0x101112131415161718191a1b1c1d1e01, 1#8, by decide +kernel⟩
    · exact ⟨hex 16 0x10101010101010101010101010101010, 16#8, by decide +kernel⟩
  · rintro v (rfl | rfl)
    · exact ⟨hex 16 0x101112131415161718191a1b1c1d1e00, 0#8, by decide +kernel⟩
    · exact ⟨hex 16 0x101112131415161718191a1b1c1d1e11, 17#8, by decide +kernel⟩

theorem witness_DecryptFnFollowsContract :
    (∃ key : List Byte, key.length ≠ 32) ∧ (∃ key iv : List Byte, key.length = 32 ∧ iv.length ≠ 16) ∧
    (∃ key iv ct : List Byte, key.length = 32 ∧ iv.length = 16 ∧ ct.length = 0) ∧
    (∃ key iv ct : List Byte, key.length = 32 ∧ iv.length = 16 ∧ ct.length % 16 ≠ 0) ∧
    (∃ (key iv ct : List Byte) (s : State), key.length = 32 ∧ iv.length = 16 ∧ ct.length ≠ 0 ∧ ct.length % 16 = 0 ∧
      s.params.ctMax < ct.length) ∧
    (∃ (key iv ct : List Byte) (s : State) (k : Key) (v : Block), k.toList = key ∧ v.toList = iv ∧ key.length = 32 ∧
      iv.length = 16 ∧ ct.length ≠ 0 ∧ ct.length % 16 = 0 ∧ ct.length ≤ s.params.ctMax) :=
  ⟨⟨List.replicate 31 0#8, by decide⟩, ⟨List.replicate 32 0#8, List.replicate 15 0#8, by decide⟩,
    ⟨List.replicate 32 0#8, List.replicate 16 0#8, [], by decide⟩,
    ⟨List.replicate 32 0#8, List.replicate 16 0#8, List.replicate 17 0#8, by decide⟩,
    ⟨List.replicate 32 0#8, List.replicate 16 0#8, List.replicate 48 0#8, small, by decide⟩,
    ⟨List.replicate 32 0#8, List.replicate 16 0#8, List.replicate 32 0#8, small, zeroKey, zeroBlock, by decide +kernel⟩⟩

theorem witness_OutOfReachValuesStop :
    (∀ v : BitVec 6, v = 1#6 ∨ v = 7#6 ∨ v = 60#6 ∨ v = 63#6 → ∃ s : State, s.engineFault = false ∧ s.ki = v ∧
      (1 ≤ s.ki.toNat ∧ s.ki.toNat ≤ 7 ∨ 60 ≤ s.ki.toNat)) ∧
    (∃ s : State, s.engineFault = false ∧ s.rnd = 15#4) ∧ (∃ s : State, s.ctlen < s.p.toNat) ∧
    (∃ s : State, s.engineFault = false ∧ s.params.ctMax < 16 * s.blk + 16) ∧
    (∃ s : State, s.ctlen = 0) ∧ (∃ s : State, s.params.ctMax < s.ctlen) ∧ (∃ s : State, s.ctlen < 16) ∧
    (∃ ct : List Byte, ct.length < 16) ∧ (∃ ct : List Byte, ct.length % 16 ≠ 0) := by
  refine ⟨fun v hv => ⟨{ accepted .kexp with ki := v }, rfl, rfl, ?_⟩, ⟨{ accepted .invcipher with rnd := 15#4 }, by decide⟩,
    ⟨decrypted .trunc 17 0, by decide⟩, ⟨{ accepted .loadblk with blk := 2 }, by decide⟩, ⟨small, by decide⟩,
    ⟨{ small with ctlen := 33 }, by decide⟩, ⟨{ small with ctlen := 15 }, by decide⟩, ⟨List.replicate 15 0#8, by decide⟩,
    ⟨List.replicate 17 0#8, by decide⟩⟩
  rcases hv with rfl | rfl | rfl | rfl <;> decide

theorem witness_CbcDecryptInvertsCbcEncrypt : ∃ (w : Schedule) (iv : Block) (m m' : List Byte), m.length % 16 = 0 ∧
    m'.length % 16 = 0 ∧ cbcDecrypt w iv m = cbcDecrypt w iv m' :=
  ⟨zeroSchedule, zeroBlock, List.replicate 16 0#8, List.replicate 16 0#8, by decide, by decide, rfl⟩

theorem witness_CbcDecryptSplitsAtBlocks : ∃ (last : Block) (ct1 ct2 : List Byte), 16 ≤ ct1.length ∧ ct1.length % 16 = 0 ∧
    ct2.length % 16 = 0 ∧ last.toList = ct1.drop (ct1.length - 16) :=
  ⟨blockHex 0x64bac78bf92341822f9cb229d5199006, hex 16 0x64bac78bf92341822f9cb229d5199006, List.replicate 16 0#8,
    by decide +kernel⟩

theorem witness_CiphertextChangesStayLocal : ∃ (ct ct' : List Byte) (i : Nat), ct.length % 16 = 0 ∧ ct'.length = ct.length ∧
    (∀ a, a < ct.length → a / 16 ≠ i → ct'[a]! = ct[a]!) ∧ ct' ≠ ct ∧
    (∃ a, a < ct.length ∧ a / 16 = i + 1) ∧ ∃ a, a < ct.length ∧ a / 16 ≠ i ∧ a / 16 ≠ i + 1 :=
  ⟨List.replicate 48 0#8, List.replicate 16 1#8 ++ List.replicate 32 0#8, 0, by decide, by decide, by decide +kernel,
    by decide +kernel, ⟨16, by decide⟩, ⟨32, by decide⟩⟩

theorem witness_LastBlockDecidesUnpad : ∃ last : List Byte, last.length = 16 := ⟨List.replicate 16 0#8, by decide⟩

theorem witness_StrictPolicyAgainstLastByteOnly :
    (∃ (dec pt : List Byte), 16 ≤ dec.length ∧ unpad dec = .ok pt) ∧
    (∃ (dec : List Byte) (p : Byte), 16 ≤ dec.length ∧ p = dec[dec.length - 1]! ∧ (p.toNat < 1 ∨ 16 < p.toNat)) ∧
    (∃ (dec : List Byte) (p : Byte), 16 ≤ dec.length ∧ p = dec[dec.length - 1]! ∧ 1 ≤ p.toNat ∧ p.toNat ≤ 16 ∧
      ∃ j, 1 ≤ j ∧ j ≤ p.toNat ∧ dec[dec.length - j]! ≠ p) ∧
    (∃ dec : List Byte, 16 ≤ dec.length ∧ unpad dec ≠ unpadLastByteOnly dec) :=
  ⟨⟨hex 16 0x10101010101010101010101010101010, [], by decide, test_unpad.2.1⟩,
    ⟨hex 16 0x101112131415161718191a1b1c1d1e11, 17#8, by decide +kernel⟩,
    ⟨hex 16 0x101112131415161718191a1b03040404, 4#8, by decide, by decide +kernel, by decide, by decide, 4, by decide +kernel⟩,
    ⟨hex 16 0x101112131415161718191a1b04050404, by decide, by rw [test_unpad_policies_differ.1, test_unpad_policies_differ.2]; simp⟩⟩

theorem witness_DecryptInvertsEncrypt : ∃ (pt : List Byte) (s : State), (pad pt).length ≤ s.params.ctMax :=
  ⟨List.replicate 31 0#8, small, by decide +kernel⟩

/-- Each way an access can lie outside the port, at the first value outside. -/
theorem witness_AccessOutsidePortRefused (e : Event) (h : e = .readReg 6 ∨ e = .writeReg 6 0 ∨ e = .writeReg 0 256 ∨
    e = .writeReg 6 256 ∨ e = .writeReg 2 256 ∨ e = .writeReg 4 256 ∨ e = .writeByte .keybuf 32 0#8 ∨ e = .writeByte .ivbuf 16 0#8 ∨
    e = .readByte .ctbuf 32 ∨ e = .readByte .pt 32) :
    ∃ (s : State) (rest : List Event), s.inputs = e :: rest ∧ OutsidePort s.params e := by
  refine ⟨idleWith [e], [], rfl, ?_⟩
  rcases h with rfl | rfl | rfl | rfl | rfl | rfl | rfl | rfl | rfl | rfl <;> simp [OutsidePort, idleWith, small, windowSize,
    Config.keyBytes, Config.ivBytes]

theorem witness_BusyPortIgnoresWrites (e : Event) (h : e = .writeReg 0 255 ∨ e = .writeReg 4 255 ∨
    e = .writeByte .keybuf 31 1#8 ∨ e = .writeByte .pt 31 1#8) :
    ∃ (s : State) (rest : List Event), isBusy s = true ∧ s.inputs = e :: rest ∧ ¬ OutsidePort s.params e ∧
      ((∃ n v, e = .writeReg n v) ∨ ∃ w off v, e = .writeByte w off v) := by
  refine ⟨{ accepted .kexp with inputs := [e] }, [], rfl, rfl, ?_, ?_⟩
  · rcases h with rfl | rfl | rfl | rfl <;> simp [OutsidePort, accepted, small, windowSize, Config.keyBytes]
  · rcases h with rfl | rfl | rfl | rfl <;> simp

theorem witness_RestingPortTakesWrites :
    (∃ (s : State) (v : Nat), isBusy s = false ∧ v < 2 ^ s.params.lenW ∧ s.inputs = [.writeReg 4 v]) ∧
    (∃ (s : State) (v : Nat), isBusy s = false ∧ s.inputs = [.writeReg 5 v]) ∧
    (∃ (s : State) (off : Nat) (v : Byte), isBusy s = false ∧ off < 32 ∧ Memory.wf .keybuf s.keybuf ∧
      s.inputs = [.writeByte .keybuf off v]) ∧
    (∃ (s : State) (off : Nat) (v : Byte), isBusy s = false ∧ off < 16 ∧ Memory.wf .ivbuf s.ivbuf ∧
      s.inputs = [.writeByte .ivbuf off v]) ∧
    (∃ (s : State) (off : Nat) (v : Byte), isBusy s = false ∧ off < s.params.ctMax ∧ Memory.wf .ctbuf s.ctbuf ∧
      s.inputs = [.writeByte .ctbuf off v]) ∧
    (∃ (s : State) (off : Nat) (v : Byte), isBusy s = false ∧ off < s.params.ctMax ∧ s.inputs = [.writeByte .pt off v]) :=
  ⟨⟨idleWith [.writeReg 4 255], 255, by decide⟩, ⟨idleWith [.writeReg 5 1], 1, by decide⟩,
    ⟨idleWith [.writeByte .keybuf 31 0#8], 31, 0#8, by decide⟩, ⟨idleWith [.writeByte .ivbuf 15 1#8], 15, 1#8, by decide⟩,
    ⟨idleWith [.writeByte .ctbuf 31 0#8], 31, 0#8, by decide⟩, ⟨idleWith [.writeByte .pt 31 1#8], 31, 1#8, by decide⟩⟩

theorem witness_BusyPortHidesTheRequest (e : Event) (_ : e = .readReg 1 ∨ e = .readReg 5 ∨ e = .readByte .pt 31 ∨
    e = .readByte .keybuf 31 ∨ e = .readByte .ivbuf 15 ∨ e = .readByte .ctbuf 31) :
    ∃ (s : State) (rest : List Event), isBusy s = true ∧ s.inputs = e :: rest ∧ 31 < s.params.ctMax :=
  ⟨{ accepted .padfull with inputs := [e] }, [], rfl, rfl, show 31 < 32 by decide⟩

/-- The last byte below `PTLEN`, and the first at it. -/
theorem witness_PlaintextWindowIsGated :
    (∃ (s : State) (rest : List Event) (j : Nat), j < s.params.ctMax ∧ s.inputs = .readByte .pt j :: rest ∧
      (isDone s = true ∧ s.status = .ok ∧ j < s.ptlen)) ∧
    (∃ (s : State) (rest : List Event) (j : Nat), j < s.params.ctMax ∧ s.inputs = .readByte .pt j :: rest ∧
      ¬ (isDone s = true ∧ s.status = .ok ∧ j < s.ptlen)) :=
  ⟨⟨{ atPhase .done with ptlen := 5, inputs := [.readByte .pt 4] }, [], 4, by decide⟩,
    ⟨{ atPhase .done with ptlen := 5, inputs := [.readByte .pt 5] }, [], 5, by decide⟩⟩

theorem witness_StatReadsLegalValue (ph : Phase) (_ : ph = .idle ∨ ph = .validate ∨ ph = .done) :
    ∃ (s : State) (rest : List Event), s.inputs = .readReg 1 :: rest ∧ s.phase = ph :=
  ⟨{ atPhase ph with inputs := [.readReg 1] }, [], rfl, rfl⟩

/-- `PTLEN` read in `DONE`, where it answers the register, and in `IDLE`, where it answers 0. -/
theorem witness_HostReadsChangeNothing_ptlen (ph : Phase) (_ : ph = .idle ∨ ph = .done) : ∃ (s : State) (e : Event)
    (rest : List Event), s.inputs = e :: rest ∧ e = .readReg 5 ∧ ¬ OutsidePort s.params e ∧ s.phase = ph ∧ s.ptlen = 5 :=
  ⟨{ atPhase ph with ptlen := 5, inputs := [.readReg 5] }, .readReg 5, [], rfl, rfl, by simp [OutsidePort], rfl, rfl⟩

theorem witness_HostReadsChangeNothing (e : Event) (h : e = .readReg 0 ∨ e = .readReg 2 ∨ e = .readReg 4 ∨ e = .readReg 5 ∨
    e = .readByte .keybuf 31 ∨ e = .readByte .ivbuf 15 ∨ e = .readByte .ctbuf 31) :
    ∃ (s : State) (rest : List Event), s.inputs = e :: rest ∧ ¬ OutsidePort s.params e ∧
      ((∃ n, e = .readReg n) ∨ ∃ w off, e = .readByte w off) := by
  refine ⟨idleWith [e], [], rfl, ?_, ?_⟩
  · rcases h with rfl | rfl | rfl | rfl | rfl | rfl | rfl <;> simp [OutsidePort, idleWith, small, windowSize,
      Config.keyBytes, Config.ivBytes]
  · rcases h with rfl | rfl | rfl | rfl | rfl | rfl | rfl <;> simp

theorem witness_EveryStepKeepsInvariant : ∃ s t : State, Inv s ∧ step s = .next t :=
  ⟨idleWith [.writeReg 0 1], atPhase .validate, inv_idleWith _, rfl⟩

theorem witness_EveryStepInsidePortCompletes :
    ∃ s : State, Inv s ∧ ∀ e rest, s.inputs = e :: rest → ¬ OutsidePort s.params e :=
  ⟨idleWith [.readReg 5], inv_idleWith _, fun e rest h => by
    have he : Event.readReg 5 = e := (List.cons.inj h).1
    subst he
    simp [OutsidePort]⟩

/-- The "hello" request of D0, from a resting port: the result is `Ok`. -/
theorem witness_PortAgreesWithDecrypt_ok : ∃ (s : State) (key iv ct : List Byte) (pt : List Byte), Inv s ∧ s.phase = .idle ∧
    key.length < 2 ^ s.params.lenW ∧ iv.length < 2 ^ s.params.lenW ∧ ct.length < 2 ^ s.params.lenW ∧
    s.inputs = requestEvents s.params key iv ct ∧ .ok pt = decrypt s.params.ctMax key iv ct s.engineFault :=
  ⟨idleWith (requestEvents small.params zeroKey.toList zeroBlock.toList (hex 16 0xc235de24d239e03cc8e377c604fca67b)),
    zeroKey.toList, zeroBlock.toList, hex 16 0xc235de24d239e03cc8e377c604fca67b, hex 5 0x68656c6c6f, inv_idleWith _, rfl,
    by decide +kernel, by decide +kernel, by decide +kernel, rfl, test_decrypt_hello.symm⟩

/-- A request with a key of 33 bytes: the result is an error. -/
theorem witness_PortAgreesWithDecrypt_err : ∃ (s : State) (key iv ct : List Byte) (k : ErrorKind), Inv s ∧ s.phase = .idle ∧
    key.length < 2 ^ s.params.lenW ∧ iv.length < 2 ^ s.params.lenW ∧ ct.length < 2 ^ s.params.lenW ∧
    s.inputs = requestEvents s.params key iv ct ∧ .err k = decrypt s.params.ctMax key iv ct s.engineFault :=
  ⟨idleWith (requestEvents small.params (List.replicate 33 0#8) [] []), List.replicate 33 0#8, [], [], .invalidKeyLength,
    inv_idleWith _, rfl, by decide +kernel, by decide +kernel, by decide +kernel, rfl, by decide +kernel⟩

/-- Two states that differ in what an earlier request left: one rests in `IDLE`, the other in `DONE` after an error. -/
theorem witness_EqualRequestsGiveEqualResponses : ∃ s s' : State, Inv s ∧ Inv s' ∧ s.phase = .idle ∧ s'.phase = .done ∧
    s.params = s'.params ∧ s.engineFault = s'.engineFault ∧ s.klen = s'.klen ∧ s.ivlen = s'.ivlen ∧ s.ctlen = s'.ctlen ∧
    (∀ j, j < 32 → s.byteAt .keybuf j = s'.byteAt .keybuf j) ∧ (∀ j, j < 16 → s.byteAt .ivbuf j = s'.byteAt .ivbuf j) ∧
    (∀ j, j < s.ctlen → s.byteAt .ctbuf j = s'.byteAt .ctbuf j) ∧
    s.inputs = [.writeReg 0 0x01] ∧ s'.inputs = [.writeReg 0 0x01] :=
  ⟨{ idleWith [.writeReg 0 0x01] with klen := 32, ivlen := 16, ctlen := 16 },
    { idleWith [.writeReg 0 0x01] with
      klen := 32, ivlen := 16, ctlen := 16, phase := .done, status := .err .invalidPadding },
    inv_of_empty_buffers rfl rfl rfl rfl rfl (by decide) (by decide) (by decide) ⟨quiet_of_reset rfl, ⟨rfl, rfl⟩, rfl⟩,
    inv_of_empty_buffers rfl rfl rfl rfl rfl (by decide) (by decide) (by decide)
      ⟨quiet_of_reset rfl, rfl, by decide, fun _ => rfl, by simp [Memory.within, idleWith, small, State.reset]⟩,
    rfl, rfl, rfl, rfl, rfl, rfl, rfl, fun _ _ => rfl, fun _ _ => rfl, fun _ _ => rfl, rfl, rfl⟩

/-- The input goes to 1 before `VALIDATE` and stays there: the first step of `KEXP` raises, and the fifth step reaches `DONE`. -/
theorem witness_AnyEngineFaultSequenceIsSafe : ∃ (s t : State) (n : Nat), Inv s ∧ s.phase = .validate ∧ Accepted s ∧
    EngineTape s.inputs ∧ runSteps n s = some t ∧ t.phase = .done ∧ t.status ≠ .ok := by
  refine ⟨validating 32 16 16 [.engineFault true],
    { validating 32 16 16 [] with engineFault := true, status := .err .cipherEngineFailure, phase := .done }, 5,
    inv_validating (by decide) (by decide) (by decide) _, rfl, ⟨rfl, rfl, by decide, by decide, by decide⟩, ?_, ?_, rfl, by simp⟩
  · intro e he
    exact .inr ⟨true, List.mem_singleton.mp he⟩
  · decide +kernel

end Sys2Proof.Tests
end

