-- ==== Sys2Proof/Proofs/EngineFault.lean ====
section
/-! PROOFS. What the `ENGINE_FAULT` input does in each phase (spec/45_decrypt_operation.md R138; spec/00_scope.md R8 (4)).

The four cryptographic phases put their whole effect under `sampled`. No guard and no effect of the other ten reads the input:
`IgnoresEngineFault` says so of an operation, and is built along the operation's branches. -/

namespace Sys2Proof.Machine

/-! ### Operations that do not read the input -/

/-- Driving the input to any level before the operation gives the same next state as driving it after. -/
def IgnoresEngineFault (f : State → StepResult) : Prop :=
  ∀ (s t : State) (level : Bool), f s = .next t →
    f { s with engineFault := level } = .next { t with engineFault := level }

theorem IgnoresEngineFault.next {g : State → State}
    (hg : ∀ s level, g { s with engineFault := level } = { g s with engineFault := level }) :
    IgnoresEngineFault fun s => .next (g s) := by
  intro s t level h
  cases h
  exact congrArg Host.Outcome.next (hg s level)

theorem IgnoresEngineFault.refused (r : Refusal) : IgnoresEngineFault fun _ => .refused r := by
  intro s t level h
  cases h

/-- A branch on a guard that does not read the input. -/
theorem IgnoresEngineFault.ite {c : State → Prop} {dec : ∀ s, Decidable (c s)} {f g : State → StepResult}
    (hc : ∀ s level, c { s with engineFault := level } ↔ c s)
    (hf : IgnoresEngineFault f) (hg : IgnoresEngineFault g) :
    IgnoresEngineFault fun s => if c s then f s else g s := by
  intro s t level h
  by_cases hs : c s
  · exact (if_pos ((hc s level).2 hs)).trans (hf s t level ((if_pos hs).symm.trans h))
  · exact (if_neg (mt (hc s level).1 hs)).trans (hg s t level ((if_neg hs).symm.trans h))

/-- A read of a buffer that does not depend on the input: a fault where it finds nothing, and otherwise an operation on what
it finds. -/
theorem IgnoresEngineFault.ofRead {α : Type} {read : State → Option α} {r : Fault} {f : State → StepResult}
    {k : α → State → StepResult} (hread : ∀ s level, read { s with engineFault := level } = read s)
    (hnone : ∀ s, read s = none → f s = .fault r) (hsome : ∀ s a, read s = some a → f s = k a s)
    (hk : ∀ a, IgnoresEngineFault (k a)) : IgnoresEngineFault f := by
  intro s t level h
  cases hs : read s with
  | none =>
    rw [hnone s hs] at h
    cases h
  | some a =>
    rw [hsome s a hs] at h
    rw [hsome _ a ((hread s level).trans hs)]
    exact hk a s t level h

/-! ### The ten phases that do not sample it -/

theorem execIdle_ignoresEngineFault : IgnoresEngineFault execIdle := .next fun _ _ => rfl

theorem execValidate_ignoresEngineFault : IgnoresEngineFault execValidate :=
  .ite (fun _ _ => Iff.rfl) (.next fun _ _ => rfl) <|
  .ite (fun _ _ => Iff.rfl) (.next fun _ _ => rfl) <|
  .ite (fun _ _ => Iff.rfl) (.next fun _ _ => rfl) <|
  .ite (fun _ _ => Iff.rfl) (.next fun _ _ => rfl) (.next fun _ _ => rfl)

theorem execPadread_ignoresEngineFault : IgnoresEngineFault execPadread :=
  .ofRead (read := lastByte) (k := fun b s => .next { s with p := b, phase := .padrange }) (fun _ _ => rfl)
    (fun s h => by rw [execPadread, h]) (fun s b h => by rw [execPadread, h]) fun _ => .next fun _ _ => rfl

theorem execPadrange_ignoresEngineFault : IgnoresEngineFault execPadrange :=
  .ite (fun _ _ => Iff.rfl) (.next fun _ _ => rfl) (.next fun _ _ => rfl)

theorem execPadlen_ignoresEngineFault : IgnoresEngineFault execPadlen :=
  .ite (fun _ _ => Iff.rfl) (.next fun _ _ => rfl) (.next fun _ _ => rfl)

theorem execPadfull_ignoresEngineFault : IgnoresEngineFault execPadfull :=
  .ofRead (read := lastBlock)
    (k := fun b s => if paddingUniform s.p b then .next { s with phase := .trunc } else .next (raise .invalidPadding s))
    (fun _ _ => rfl) (fun s h => by rw [execPadfull, h]) (fun s b h => by rw [execPadfull, h])
    fun _ => .ite (fun _ _ => Iff.rfl) (.next fun _ _ => rfl) (.next fun _ _ => rfl)

theorem execTrunc_ignoresEngineFault : IgnoresEngineFault execTrunc :=
  .ite (fun _ _ => Iff.rfl) (.refused _) (.next fun _ _ => rfl)

theorem execFail_ignoresEngineFault : IgnoresEngineFault execFail := .next fun _ _ => rfl

/-- The wipe reads `ERRK` and `PTLEN`, not the input. -/
theorem wiped_with_engineFault (s : State) (level : Bool) :
    wiped { s with engineFault := level } = { wiped s with engineFault := level } := by
  simp only [wiped, keptByWipe]

theorem execWipe_ignoresEngineFault : IgnoresEngineFault execWipe :=
  .next (g := fun s => { wiped s with phase := .done }) fun s level => by rw [wiped_with_engineFault]

theorem execDone_ignoresEngineFault : IgnoresEngineFault execDone := .next fun _ _ => rfl

/-! ### The four phases that sample it -/

/-- With the input at 1, a cryptographic phase raises and performs nothing of its own effect. -/
theorem exec_cryptographic_of_high {s : State} {i : Instr} (h : s.engineFault = true)
    (hi : i = .kexp ∨ i = .loadblk ∨ i = .invcipher ∨ i = .cbcxor) :
    exec i s = .next (raise .cipherEngineFailure s) := by
  obtain rfl | rfl | rfl | rfl := hi <;> exact sampled_of_high h _

/-! ### The environment's action -/

/-- A queued level is driven onto the input, in every phase, and nothing else but the queue changes (R8 (4)). -/
theorem step_engineFault {s : State} {level : Bool} {rest : List Event} (h : s.inputs = .engineFault level :: rest) :
    step s = .next { s with inputs := rest, engineFault := level } := by
  rw [step_cons h, handle]

/-- Settles O26: the sampled phases raise, each of the other ten phases is built of branches that do not read the input, and
the environment's action is one arm of `handle`. -/
theorem engineFaultSampledInCryptographicPhases : Obligations.EngineFaultSampledInCryptographicPhases := by
  refine ⟨fun s i h hi => exec_cryptographic_of_high h hi, ?_, fun s rest level h => step_engineFault h⟩
  intro s t i level hi
  obtain rfl | rfl | rfl | rfl | rfl | rfl | rfl | rfl | rfl | rfl := hi
  · exact execIdle_ignoresEngineFault s t level
  · exact execValidate_ignoresEngineFault s t level
  · exact execPadread_ignoresEngineFault s t level
  · exact execPadrange_ignoresEngineFault s t level
  · exact execPadlen_ignoresEngineFault s t level
  · exact execPadfull_ignoresEngineFault s t level
  · exact execTrunc_ignoresEngineFault s t level
  · exact execFail_ignoresEngineFault s t level
  · exact execWipe_ignoresEngineFault s t level
  · exact execDone_ignoresEngineFault s t level

end Sys2Proof.Machine
end

