-- ==== Sys2Proof/Proofs/Invariant.lean ====
section
/-! PROOFS. The invariant of the machine, and what it gives about the state (spec/10_state.md R20, R38, R39;
spec/20_memory.md R43; spec/45_decrypt_operation.md R125, R139).

`SeqTurn` says once what a turn of the sequencer can do. Under the invariant there always is a turn, so its cases are all the
sequencer does. Three facts are proved along these cases: every step keeps the invariant, a request ends within a known number
of steps, and it does not depend on what came before it. -/

namespace Sys2Proof.Machine

/-! ### The turns of the sequencer -/

/-- The checks that end a request: the error kind each phase raises, and when (R128, R116, R117, R118, R138). -/
inductive Raises (s : State) : ErrorKind → Prop where
  | keyLength (h : s.phase = .validate) (hk : s.klen ≠ Config.keyBytes) : Raises s .invalidKeyLength
  | ivLength (h : s.phase = .validate) (hk : s.klen = Config.keyBytes) (hi : s.ivlen ≠ Config.ivBytes) :
      Raises s .invalidIvLength
  | ctLength (h : s.phase = .validate) (hk : s.klen = Config.keyBytes) (hi : s.ivlen = Config.ivBytes)
      (hc : ctLengthBad s.ctlen = true) : Raises s .invalidCiphertextLength
  | capacity (h : s.phase = .validate) (hk : s.klen = Config.keyBytes) (hi : s.ivlen = Config.ivBytes)
      (hc : ctLengthBad s.ctlen = false) (hm : s.params.ctMax < s.ctlen) : Raises s .cipherEngineFailure
  | engineFault (h : s.phase = .kexp ∨ s.phase = .loadblk ∨ s.phase = .invcipher ∨ s.phase = .cbcxor)
      (hf : s.engineFault = true) : Raises s .cipherEngineFailure
  | padRange (h : s.phase = .padrange) (hp : padOutOfRange s.p = true) : Raises s .invalidPadding
  | padLength (h : s.phase = .padlen) (hp : s.ctlen < s.p.toNat) : Raises s .invalidPadding
  | padBytes (h : s.phase = .padfull) {b : Block} (hb : lastBlock s = some b) (hp : paddingUniform s.p b = false) :
      Raises s .invalidPadding

/-- The block of `CTBUF` that `LOADBLK` takes (R106). -/
def ctBlock (s : State) : Block := Vector.ofFn fun j => s.byteAt .ctbuf (blockOffset s + j.val)

/-- What `CBCXOR` stores, before the control transfer (R107). -/
def blockStored (s : State) : State :=
  { s with dec := memStoreBytes .dec s.dec (blockOffset s) (xorBlock s.sreg s.prev).toList, prev := s.cur }

@[simp] theorem blockStored_klen (s : State) : (blockStored s).klen = s.klen := by simp only [blockStored]
@[simp] theorem blockStored_ivlen (s : State) : (blockStored s).ivlen = s.ivlen := by simp only [blockStored]
@[simp] theorem blockStored_ctlen (s : State) : (blockStored s).ctlen = s.ctlen := by simp only [blockStored]
@[simp] theorem blockStored_ptlen (s : State) : (blockStored s).ptlen = s.ptlen := by simp only [blockStored]
@[simp] theorem blockStored_status (s : State) : (blockStored s).status = s.status := by simp only [blockStored]
@[simp] theorem blockStored_keybuf (s : State) : (blockStored s).keybuf = s.keybuf := by simp only [blockStored]
@[simp] theorem blockStored_ivbuf (s : State) : (blockStored s).ivbuf = s.ivbuf := by simp only [blockStored]
@[simp] theorem blockStored_ctbuf (s : State) : (blockStored s).ctbuf = s.ctbuf := by simp only [blockStored]
@[simp] theorem blockStored_blk (s : State) : (blockStored s).blk = s.blk := by simp only [blockStored]
@[simp] theorem blockStored_errk (s : State) : (blockStored s).errk = s.errk := by simp only [blockStored]
@[simp] theorem blockStored_inputs (s : State) : (blockStored s).inputs = s.inputs := by simp only [blockStored]
@[simp] theorem blockStored_params (s : State) : (blockStored s).params = s.params := by simp only [blockStored]
@[simp] theorem blockStored_dec (s : State) : (blockStored s).dec =
    memStoreBytes .dec s.dec (blockOffset s) (xorBlock s.sreg s.prev).toList := by simp only [blockStored]

/-- What one turn of the sequencer can do, one constructor for each effect a phase has (R126 to R136), with the guards
under which the phase has it. -/
inductive SeqTurn (s : State) : State → Prop where
  | idle (h : s.phase = .idle) : SeqTurn s s
  | raise {k : ErrorKind} (hr : Raises s k) : SeqTurn s (raise k s)
  | accept (h : s.phase = .validate) (hk : s.klen = Config.keyBytes) (hi : s.ivlen = Config.ivBytes)
      (hc : ctLengthBad s.ctlen = false) (hm : s.ctlen ≤ s.params.ctMax) :
      SeqTurn s { s with prev := ivOperand s, phase := .kexp }
  | kexpCopy (h : s.phase = .kexp) (hf : s.engineFault = false) (hk : s.ki = 0#6) : SeqTurn s (kexpCopy s)
  | kexpWord (h : s.phase = .kexp) (hf : s.engineFault = false) (hk : 8 ≤ s.ki.toNat) (hk' : s.ki.toNat < 59) :
      SeqTurn s (kexpWord s)
  | kexpLast (h : s.phase = .kexp) (hf : s.engineFault = false) (hk : s.ki = 59#6) :
      SeqTurn s { kexpWord s with phase := .loadblk, blk := 0 }
  | loadblk (h : s.phase = .loadblk) (hf : s.engineFault = false) (hb : blockOffset s + 16 ≤ s.params.ctMax) :
      SeqTurn s { s with sreg := ctBlock s, cur := ctBlock s, rnd := 14#4, phase := .invcipher }
  | invFirst (h : s.phase = .invcipher) (hf : s.engineFault = false) (hr : s.rnd = 14#4) :
      SeqTurn s { s with sreg := addRoundKey s.sreg (roundKey s.w 14), rnd := 13#4 }
  | invRound (h : s.phase = .invcipher) (hf : s.engineFault = false) (hr : 1 ≤ s.rnd.toNat) (hr' : s.rnd.toNat ≤ 13) :
      SeqTurn s { s with sreg := invRound s.w s.rnd.toNat s.sreg, rnd := s.rnd - 1#4 }
  | invFinal (h : s.phase = .invcipher) (hf : s.engineFault = false) (hr : s.rnd = 0#4) :
      SeqTurn s { s with sreg := invFinalRound s.w s.sreg, phase := .cbcxor }
  | cbcxorNext (h : s.phase = .cbcxor) (hf : s.engineFault = false) (hb : blockOffset s + 16 ≤ s.params.ctMax)
      (hn : s.blk + 1 < s.ctlen / 16) : SeqTurn s { blockStored s with blk := s.blk + 1, phase := .loadblk }
  | cbcxorLast (h : s.phase = .cbcxor) (hf : s.engineFault = false) (hb : blockOffset s + 16 ≤ s.params.ctMax)
      (hn : ¬ s.blk + 1 < s.ctlen / 16) : SeqTurn s { blockStored s with phase := .padread }
  | padread (h : s.phase = .padread) {b : Byte} (hb : lastByte s = some b) :
      SeqTurn s { s with p := b, phase := .padrange }
  | padrange (h : s.phase = .padrange) (hp : padOutOfRange s.p = false) : SeqTurn s { s with phase := .padlen }
  | padlen (h : s.phase = .padlen) (hp : s.p.toNat ≤ s.ctlen) : SeqTurn s { s with phase := .padfull }
  | padfull (h : s.phase = .padfull) {b : Block} (hb : lastBlock s = some b) (hp : paddingUniform s.p b = true) :
      SeqTurn s { s with phase := .trunc }
  | trunc (h : s.phase = .trunc) (hp : s.p.toNat ≤ s.ctlen) :
      SeqTurn s { s with ptlen := s.ctlen - s.p.toNat, phase := .wipe }
  | fail (h : s.phase = .fail) : SeqTurn s { s with ptlen := 0, phase := .wipe }
  | wipe (h : s.phase = .wipe) : SeqTurn s { wiped s with phase := .done }
  | done (h : s.phase = .done) : SeqTurn s s

/-! The turns are what the sequencer does. -/

/-- A check that raises performs nothing else of its phase (R134, R153). -/
theorem Raises.sequencerStep_eq {s : State} {k : ErrorKind} (hr : Raises s k) :
    sequencerStep s = .next (Machine.raise k s) := by
  rw [Machine.sequencerStep_eq]
  cases hr with
  | keyLength h hk => rw [h]; exact if_pos hk
  | ivLength h hk hi => simp [h, Phase.instr, exec, execValidate, hk, hi]
  | ctLength h hk hi hc => simp [h, Phase.instr, exec, execValidate, hk, hi, hc]
  | capacity h hk hi hc hm => simp [h, Phase.instr, exec, execValidate, hk, hi, hc, hm]
  | engineFault h hf =>
    refine exec_cryptographic_of_high hf ?_
    obtain h | h | h | h := h <;> simp [h, Phase.instr]
  | padRange h hp => rw [h]; exact if_pos hp
  | padLength h hp => rw [h]; exact if_pos hp
  | padBytes h hb hp => simp [h, Phase.instr, exec, execPadfull, hb, hp]

/-- A step of `KEXP` after the first: one word, and the end of the phase after the last (R90). -/
theorem execKexp_word {s : State} (hf : s.engineFault = false) (hk : 8 ≤ s.ki.toNat) (hk' : s.ki.toNat < 60) :
    execKexp s = .next (kexpEnd (Machine.kexpWord s)) := by
  have hne : s.ki ≠ 0#6 := fun h => by simp [h] at hk
  rw [execKexp, sampled_of_low hf, if_neg hne, if_pos ⟨hk, hk'⟩]

/-- `LOADBLK` of a block inside `CTBUF` (R106). -/
theorem execLoadblk_fits {s : State} (hf : s.engineFault = false) (hb : blockOffset s + 16 ≤ s.params.ctMax) :
    execLoadblk s = .next { s with sreg := ctBlock s, cur := ctBlock s, rnd := 14#4, phase := .invcipher } := by
  have hread : memReadBlock .ctbuf (blockOffset s) s = some (ctBlock s) := memReadBlock_eq_some.2 ⟨hb, rfl⟩
  rw [execLoadblk, sampled_of_low hf, hread]

/-- `CBCXOR` into a block inside `DEC` (R107). -/
theorem execCbcxor_fits {s : State} (hf : s.engineFault = false) (hb : blockOffset s + 16 ≤ s.params.ctMax) :
    execCbcxor s = .next (nextBlock (blockStored s)) := by
  have hwrite : memWrite .dec (blockOffset s) (xorBlock s.sreg s.prev).toList s =
      some { s with dec := memStoreBytes .dec s.dec (blockOffset s) (xorBlock s.sreg s.prev).toList } :=
    memWrite_eq_some.2 ⟨by simpa [Buf.size] using hb, rfl⟩
  rw [execCbcxor, sampled_of_low hf, hwrite, blockStored]

/-- Each case of `SeqTurn` is a step of the sequencer. -/
theorem SeqTurn.sequencerStep_eq {s t : State} (ht : SeqTurn s t) : sequencerStep s = .next t := by
  rw [Machine.sequencerStep_eq]
  cases ht with
  | idle h => rw [h]; rfl
  | raise hr => rw [← Machine.sequencerStep_eq]; exact hr.sequencerStep_eq
  | accept h hk hi hc hm => simp [h, Phase.instr, exec, execValidate, hk, hi, hc, Nat.not_lt.2 hm]
  | kexpCopy h hf hk => simp [h, Phase.instr, exec, execKexp, sampled_of_low hf, hk]
  | kexpWord h hf hk hk' =>
    have hend : kexpEnd (Machine.kexpWord s) = Machine.kexpWord s := if_neg (by rw [kexpWord_ki]; bv_omega)
    rw [h, ← hend]
    exact execKexp_word hf hk (by omega)
  | kexpLast h hf hk =>
    have hend : kexpEnd (Machine.kexpWord s) = { Machine.kexpWord s with phase := .loadblk, blk := 0 } :=
      if_pos (by rw [kexpWord_ki, hk]; rfl)
    rw [h, ← hend]
    exact execKexp_word hf (by simp [hk]) (by simp [hk])
  | loadblk h hf hb => rw [h]; exact execLoadblk_fits hf hb
  | invFirst h hf hr => simp [h, Phase.instr, exec, execInvcipher, sampled_of_low hf, hr]
  | invRound h hf hr hr' =>
    have h14 : s.rnd ≠ 14#4 := fun e => by simp [e] at hr'
    have h15 : s.rnd ≠ 15#4 := fun e => by simp [e] at hr'
    have h0 : s.rnd ≠ 0#4 := fun e => by simp [e] at hr
    simp [h, Phase.instr, exec, execInvcipher, sampled_of_low hf, h14, h15, h0]
  | invFinal h hf hr => simp [h, Phase.instr, exec, execInvcipher, sampled_of_low hf, hr]
  | cbcxorNext h hf hb hn =>
    have hnext : nextBlock (blockStored s) = { blockStored s with blk := s.blk + 1, phase := .loadblk } := by
      simp [nextBlock, blockCount, hn]
    rw [h, Phase.instr, exec, execCbcxor_fits hf hb, hnext]
  | cbcxorLast h hf hb hn =>
    have hnext : nextBlock (blockStored s) = { blockStored s with phase := .padread } := by
      simp [nextBlock, blockCount, hn]
    rw [h, Phase.instr, exec, execCbcxor_fits hf hb, hnext]
  | padread h hb => simp [h, Phase.instr, exec, execPadread, hb]
  | padrange h hp => simp [h, Phase.instr, exec, execPadrange, hp]
  | padlen h hp => simp [h, Phase.instr, exec, execPadlen, Nat.not_lt.2 hp]
  | padfull h hb hp => simp [h, Phase.instr, exec, execPadfull, hb, hp]
  | trunc h hp => simp [h, Phase.instr, exec, execTrunc, Nat.not_lt.2 hp]
  | fail h => rw [h]; rfl
  | wipe h => rw [h]; rfl
  | done h => rw [h]; rfl

/-! ### What the phases' conditions depend on -/

theorem Accepted.frame {s t : State} (h : Accepted s) (hk : t.klen = s.klen := by simp) (hi : t.ivlen = s.ivlen := by simp)
    (hc : t.ctlen = s.ctlen := by simp) (hp : t.params = s.params := by simp) : Accepted t :=
  ⟨hk.trans h.klen, hi.trans h.ivlen, hc ▸ h.ctlen_pos, hc ▸ h.ctlen_aligned, by rw [hc, hp]; exact h.ctlen_fits⟩

theorem NoResponse.frame {s t : State} (h : NoResponse s) (hs : t.status = s.status := by simp)
    (hp : t.ptlen = s.ptlen := by simp) : NoResponse t := ⟨hs.trans h.status, hp.trans h.ptlen⟩

theorem Quiet.frame {s t : State} (h : Quiet s)
    (ht : (t.w, t.sreg, t.prev, t.cur, t.p, t.blk, t.rnd, t.ki) =
      (s.w, s.sreg, s.prev, s.cur, s.p, s.blk, s.rnd, s.ki) := by simp) : Quiet t := by
  simp only [Prod.mk.injEq] at ht
  obtain ⟨hw, hs, hv, hc, hp, hb, hr, hk⟩ := ht
  exact ⟨hw.trans h.w, hs.trans h.sreg, hv.trans h.prev, hc.trans h.cur, hp.trans h.p, hb.trans h.blk, hr.trans h.rnd,
    hk.trans h.ki⟩

/-- The invariant after an action that leaves the parameters and the lengths and leaves the buffers of `u`. -/
theorem Inv.of_buffers {s u t : State} (h : Inv s) (ht : PhaseInv t) (hwf : ∀ b, Memory.wf b (u.buf b))
    (hin : ∀ b, Memory.within (b.size s.params) (u.buf b))
    (hreg : (t.params, t.klen, t.ivlen, t.ctlen) = (s.params, s.klen, s.ivlen, s.ctlen) := by simp)
    (hbuf : ∀ b, t.buf b = u.buf b := by intro b; cases b <;> simp [State.buf]) : Inv t := by
  simp only [Prod.mk.injEq] at hreg
  obtain ⟨hp, hk, hi, hc⟩ := hreg
  exact ⟨hp ▸ h.params, fun b => hbuf b ▸ hwf b, fun b => by rw [hbuf, hp]; exact hin b, by rw [hk, hp]; exact h.klen,
    by rw [hi, hp]; exact h.ivlen, by rw [hc, hp]; exact h.ctlen, ht⟩

/-- The invariant after an action that leaves the buffers as well. -/
theorem Inv.of_phaseInv {s t : State} (h : Inv s) (ht : PhaseInv t)
    (hreg : (t.params, t.klen, t.ivlen, t.ctlen) = (s.params, s.klen, s.ivlen, s.ctlen) := by simp)
    (hbuf : ∀ b, t.buf b = s.buf b := by intro b; cases b <;> simp [State.buf]) : Inv t :=
  h.of_buffers ht h.mem_wf h.mem_within hreg hbuf

theorem quiet_iff (s : State) : Quiet s ↔ s.w = zeroSchedule ∧ s.sreg = zeroBlock ∧ s.prev = zeroBlock ∧
    s.cur = zeroBlock ∧ s.p = 0x00#8 ∧ s.blk = 0 ∧ s.rnd = 0#4 ∧ s.ki = 0#6 :=
  ⟨fun ⟨hw, hs, hv, hc, hp, hb, hr, hk⟩ => ⟨hw, hs, hv, hc, hp, hb, hr, hk⟩,
    fun ⟨hw, hs, hv, hc, hp, hb, hr, hk⟩ => ⟨hw, hs, hv, hc, hp, hb, hr, hk⟩⟩

theorem accepted_iff (s : State) : Accepted s ↔
    s.klen = 32 ∧ s.ivlen = 16 ∧ 16 ≤ s.ctlen ∧ s.ctlen % 16 = 0 ∧ s.ctlen ≤ s.params.ctMax :=
  ⟨fun ⟨hk, hi, hc, ha, hf⟩ => ⟨hk, hi, hc, ha, hf⟩, fun ⟨hk, hi, hc, ha, hf⟩ => ⟨hk, hi, hc, ha, hf⟩⟩

theorem noResponse_iff (s : State) : NoResponse s ↔ s.status = .ok ∧ s.ptlen = 0 :=
  ⟨fun ⟨hs, hp⟩ => ⟨hs, hp⟩, fun ⟨hs, hp⟩ => ⟨hs, hp⟩⟩

/-- No phase's condition reads the input level or the model's own fields. -/
theorem Inv.withEnvironment {s : State} (h : Inv s) (level : Bool) (es : List Event) (r : Option ReadData) :
    Inv { s with engineFault := level, inputs := es, readData := r } :=
  h.of_phaseInv (by simpa only [PhaseInv, quiet_iff, accepted_iff, noResponse_iff] using h.phase)

/-- At rest, no phase's condition reads what the host owns: the lengths and the request buffers. -/
theorem PhaseInv.withRequest {s : State} (h : PhaseInv s) (hb : isBusy s = false) (k i c : Nat) (kb ib cb : Memory) :
    PhaseInv { s with klen := k, ivlen := i, ctlen := c, keybuf := kb, ivbuf := ib, ctbuf := cb } := by
  cases hp : s.phase with
  | idle => simpa only [PhaseInv, hp, quiet_iff, noResponse_iff] using h
  | done => simpa only [PhaseInv, hp, quiet_iff, noResponse_iff] using h
  | _ => simp [isBusy, hp] at hb

theorem isBusy_eq_false {s : State} : isBusy s = false ↔ s.phase = .idle ∨ s.phase = .done := by
  cases h : s.phase <;> simp [isBusy, h]

/-! ### The reset state and the reset input -/

theorem quiet_reset : Quiet State.reset := ⟨rfl, rfl, rfl, rfl, rfl, rfl, rfl, rfl⟩

/-- Settles O55: the buffers are empty, the lengths and the datapath zero, and the parameters of `State.reset` legal. -/
theorem resetMeetsInvariant : Obligations.ResetMeetsInvariant where
  params := by decide
  mem_wf := reset_buf_wf
  mem_within b := by cases b <;> simp [Memory.within, State.buf, State.reset]
  klen := Nat.two_pow_pos _
  ivlen := Nat.two_pow_pos _
  ctlen := Nat.two_pow_pos _
  phase := ⟨quiet_reset, ⟨rfl, rfl⟩, rfl⟩

theorem Inv.applyReset {s : State} (h : Inv s) : Inv (applyReset s) where
  params := h.params
  mem_wf
    | .keybuf => reset_buf_wf .keybuf
    | .ivbuf => reset_buf_wf .ivbuf
    | .ctbuf => h.mem_wf .ctbuf
    | .dec => h.mem_wf .dec
  mem_within
    | .keybuf => by simp [Memory.within, State.buf]
    | .ivbuf => by simp [Memory.within, State.buf]
    | .ctbuf => h.mem_within .ctbuf
    | .dec => h.mem_within .dec
  klen := Nat.two_pow_pos _
  ivlen := Nat.two_pow_pos _
  ctlen := Nat.two_pow_pos _
  phase := ⟨⟨rfl, rfl, rfl, rfl, rfl, rfl, rfl, rfl⟩, ⟨rfl, rfl⟩, rfl⟩

/-! ### The sequencer keeps the invariant -/

theorem PhaseInv.noResponse {s : State} (h : PhaseInv s) (hf : s.phase ≠ .fail) (hw : s.phase ≠ .wipe)
    (hd : s.phase ≠ .done) : NoResponse s := by
  cases hs : s.phase with
  | fail => exact absurd hs hf
  | wipe => exact absurd hs hw
  | done => exact absurd hs hd
  | _ =>
    simp only [PhaseInv, hs] at h
    exact h.2.1

/-- No error is raised while one is pending or a response is held. -/
theorem Raises.noResponse {s : State} {k : ErrorKind} (hr : Raises s k) (h : PhaseInv s) : NoResponse s := by
  cases hr with
  | engineFault hp => obtain hp | hp | hp | hp := hp <;> exact h.noResponse (by simp [hp]) (by simp [hp]) (by simp [hp])
  | _ hp => exact h.noResponse (by simp [hp]) (by simp [hp]) (by simp [hp])

/-- What the checks of `VALIDATE` establish (R128). -/
theorem accepted_of_validate {s : State} (hk : s.klen = Config.keyBytes) (hi : s.ivlen = Config.ivBytes)
    (hc : ctLengthBad s.ctlen = false) (hm : s.ctlen ≤ s.params.ctMax) : Accepted s := by
  simp only [ctLengthBad, Bool.or_eq_false_iff, beq_eq_false_iff_ne, bne_eq_false_iff_eq] at hc
  exact ⟨hk, hi, by omega, by omega, hm⟩

theorem padOutOfRange_eq_false {p : Byte} : padOutOfRange p = false ↔ 1 ≤ p.toNat ∧ p.toNat ≤ 16 := by
  simp only [padOutOfRange, Bool.or_eq_false_iff, decide_eq_false_iff_not, Nat.not_lt]

theorem blockStored_buf_of_ne (s : State) {b : Buf} (h : b ≠ .dec) : (blockStored s).buf b = s.buf b := by
  cases b <;> simp only [State.buf, blockStored_keybuf, blockStored_ivbuf, blockStored_ctbuf]
  exact absurd rfl h

theorem blockStored_buf_wf {s : State} (h : ∀ b, Memory.wf b (s.buf b)) (b : Buf) :
    Memory.wf b ((blockStored s).buf b) := by
  by_cases hb : b = .dec
  · subst hb
    simpa only [State.buf, blockStored_dec] using memStoreBytes_wf (h .dec) _ _
  · rw [blockStored_buf_of_ne s hb]
    exact h b

theorem blockStored_buf_within {s : State} (h : ∀ b : Buf, Memory.within (b.size s.params) (s.buf b))
    (hfit : blockOffset s + 16 ≤ s.params.ctMax) (b : Buf) : Memory.within (b.size s.params) ((blockStored s).buf b) := by
  by_cases hb : b = .dec
  · subst hb
    simp only [State.buf, blockStored_dec]
    exact memStoreBytes_within (h .dec) (by simpa [Buf.size] using hfit)
  · rw [blockStored_buf_of_ne s hb]
    exact h b

theorem wiped_buf_wf {s : State} (h : ∀ b, Memory.wf b (s.buf b)) (b : Buf) : Memory.wf b ((wiped s).buf b) := by
  cases b with
  | dec => simpa only [State.buf, wiped_dec] using memZeroFrom_wf (h .dec) _
  | ctbuf => simpa [State.buf] using h .ctbuf
  | keybuf => simpa only [State.buf, wiped_keybuf] using memStoreBytes_wf (h .keybuf) _ _
  | ivbuf => simpa only [State.buf, wiped_ivbuf] using memStoreBytes_wf (h .ivbuf) _ _

theorem wiped_buf_within {s : State} (h : ∀ b : Buf, Memory.within (b.size s.params) (s.buf b)) (b : Buf) :
    Memory.within (b.size s.params) ((wiped s).buf b) := by
  cases b <;> simp only [State.buf, wiped_keybuf, wiped_ivbuf, wiped_ctbuf, wiped_dec]
  case keybuf => exact memStoreBytes_within (h .keybuf) (by simp [Buf.size, Config.keyBytes])
  case ivbuf => exact memStoreBytes_within (h .ivbuf) (by simp [Buf.size, Config.ivBytes])
  case ctbuf => exact h .ctbuf
  case dec => exact memZeroFrom_within_of (h .dec) _

/-- What `DONE` asks for, after the wipe (R135): after an error nothing of `DEC` is kept and `PTLEN` is 0. -/
theorem phaseInv_wiped {s : State} (h : PhaseInv s) (hp : s.phase = .wipe) :
    PhaseInv { wiped s with phase := .done } := by
  simp only [PhaseInv, hp] at h
  obtain ⟨-, hlen, herr⟩ := h
  refine ⟨⟨rfl, rfl, rfl, rfl, rfl, rfl, rfl, rfl⟩, rfl, by simpa using hlen, by simpa using herr, ?_⟩
  by_cases he : s.errk = .ok
  · simpa [keptByWipe, he] using memZeroFrom_within s.dec s.ptlen
  · simp [keptByWipe, he, Memory.within]

/-- Every turn of the sequencer keeps the invariant. -/
theorem Inv.turn {s t : State} (h : Inv s) (ht : SeqTurn s t) : Inv t := by
  have hinv := h.phase
  cases ht with
  | idle hp => exact h
  | raise hr =>
    have hn := hr.noResponse hinv
    exact h.of_phaseInv ⟨hn.status, by simp, hn.ptlen⟩
  | accept hp hk hi hc hm =>
    simp only [PhaseInv, hp] at hinv
    obtain ⟨hq, hn, he⟩ := hinv
    exact h.of_phaseInv ⟨(accepted_of_validate hk hi hc hm).frame, hn.frame, he, .inl hq.ki⟩
  | kexpCopy hp hf hk =>
    simp only [PhaseInv, hp] at hinv
    obtain ⟨ha, hn, he, -⟩ := hinv
    refine h.of_phaseInv ?_
    simp only [PhaseInv, kexpCopy_phase, hp]
    exact ⟨ha.frame, hn.frame, by simpa using he, .inr (by simp)⟩
  | kexpWord hp hf hk hk' =>
    simp only [PhaseInv, hp] at hinv
    obtain ⟨ha, hn, he, -⟩ := hinv
    refine h.of_phaseInv ?_
    simp only [PhaseInv, kexpWord_phase, hp]
    exact ⟨ha.frame, hn.frame, by simpa using he, .inr (by rw [kexpWord_ki]; bv_omega)⟩
  | kexpLast hp hf hk =>
    simp only [PhaseInv, hp] at hinv
    obtain ⟨ha, hn, he, -⟩ := hinv
    exact h.of_phaseInv ⟨ha.frame, hn.frame, by simpa using he, by simpa using ha.ctlen_pos⟩
  | loadblk hp hf hb =>
    simp only [PhaseInv, hp] at hinv
    obtain ⟨ha, hn, he, hblk⟩ := hinv
    exact h.of_phaseInv ⟨ha.frame, hn.frame, he, hblk, by simp⟩
  | invFirst hp hf hr =>
    simp only [PhaseInv, hp] at hinv
    obtain ⟨ha, hn, he, hblk, -⟩ := hinv
    refine h.of_phaseInv ?_
    simp only [PhaseInv, hp]
    exact ⟨ha.frame, hn.frame, he, hblk, by decide⟩
  | invRound hp hf hr hr' =>
    simp only [PhaseInv, hp] at hinv
    obtain ⟨ha, hn, he, hblk, -⟩ := hinv
    refine h.of_phaseInv ?_
    simp only [PhaseInv, hp]
    exact ⟨ha.frame, hn.frame, he, hblk, by bv_omega⟩
  | invFinal hp hf hr =>
    simp only [PhaseInv, hp] at hinv
    obtain ⟨ha, hn, he, hblk, -⟩ := hinv
    exact h.of_phaseInv ⟨ha.frame, hn.frame, he, hblk⟩
  | cbcxorNext hp hf hb hn' =>
    simp only [PhaseInv, hp] at hinv
    obtain ⟨ha, hn, he, -⟩ := hinv
    exact h.of_buffers ⟨ha.frame, hn.frame, by simpa using he, by simpa using hn'⟩
      (blockStored_buf_wf h.mem_wf) (blockStored_buf_within h.mem_within hb)
  | cbcxorLast hp hf hb hn' =>
    simp only [PhaseInv, hp] at hinv
    obtain ⟨ha, hn, he, -⟩ := hinv
    exact h.of_buffers ⟨ha.frame, hn.frame, by simpa using he⟩
      (blockStored_buf_wf h.mem_wf) (blockStored_buf_within h.mem_within hb)
  | padread hp hb =>
    simp only [PhaseInv, hp] at hinv
    obtain ⟨ha, hn, he⟩ := hinv
    exact h.of_phaseInv ⟨ha.frame, hn.frame, he⟩
  | padrange hp hr =>
    simp only [PhaseInv, hp] at hinv
    obtain ⟨ha, hn, he⟩ := hinv
    exact h.of_phaseInv ⟨ha.frame, hn.frame, he, padOutOfRange_eq_false.1 hr⟩
  | padlen hp hl =>
    simp only [PhaseInv, hp] at hinv
    obtain ⟨ha, hn, he, hr⟩ := hinv
    exact h.of_phaseInv ⟨ha.frame, hn.frame, he, hr⟩
  | padfull hp hb hu =>
    simp only [PhaseInv, hp] at hinv
    obtain ⟨ha, hn, he, hr⟩ := hinv
    exact h.of_phaseInv ⟨ha.frame, hn.frame, he, hr⟩
  | trunc hp hl =>
    simp only [PhaseInv, hp] at hinv
    obtain ⟨ha, hn, he, hr, -⟩ := hinv
    have hlt : s.ctlen - s.p.toNat < s.params.ctMax := by
      have := ha.ctlen_fits
      omega
    exact h.of_phaseInv ⟨hn.status, hlt, fun hne => absurd he hne⟩
  | fail hp =>
    simp only [PhaseInv, hp] at hinv
    obtain ⟨hs, -, -⟩ := hinv
    have hpos : 0 < s.params.ctMax := by
      have := h.params.1
      omega
    exact h.of_phaseInv ⟨hs, hpos, fun _ => rfl⟩
  | wipe hp =>
    exact h.of_buffers (phaseInv_wiped hinv hp) (wiped_buf_wf h.mem_wf) (wiped_buf_within h.mem_within)
  | done hp => exact h

/-! ### Under the invariant the sequencer always has a turn -/

/-- A block in work lies inside the ciphertext (R43, R65). -/
theorem Accepted.blockOffset_fits {s : State} (ha : Accepted s) (hb : s.blk < s.ctlen / 16) :
    blockOffset s + 16 ≤ s.ctlen := by
  have := ha.ctlen_aligned
  unfold blockOffset
  omega

theorem Accepted.exists_lastBlock {s : State} (ha : Accepted s) : ∃ b, lastBlock s = some b :=
  ⟨_, lastBlock_eq_some.2 ⟨ha.ctlen_pos, ha.ctlen_fits, rfl⟩⟩

theorem Accepted.exists_lastByte {s : State} (ha : Accepted s) : ∃ b, lastByte s = some b := by
  have hpos := ha.ctlen_pos
  have hfit := ha.ctlen_fits
  exact ⟨_, lastByte_eq_some.2 ⟨by omega, by omega, rfl⟩⟩

/-- `VALIDATE` accepts or raises, whatever the lengths are. -/
theorem exists_turn_validate {s : State} (hp : s.phase = .validate) : ∃ t, SeqTurn s t := by
  by_cases hk : s.klen = Config.keyBytes
  case neg => exact ⟨_, .raise (.keyLength hp hk)⟩
  by_cases hi : s.ivlen = Config.ivBytes
  case neg => exact ⟨_, .raise (.ivLength hp hk hi)⟩
  cases hc : ctLengthBad s.ctlen
  case true => exact ⟨_, .raise (.ctLength hp hk hi hc)⟩
  by_cases hm : s.params.ctMax < s.ctlen
  · exact ⟨_, .raise (.capacity hp hk hi hc hm)⟩
  · exact ⟨_, .accept hp hk hi hc (Nat.not_lt.1 hm)⟩

/-- The turns of a cryptographic phase when the input is low. -/
theorem exists_turn_cryptographic {s : State} (h : PhaseInv s) (hf : s.engineFault = false)
    (hp : s.phase = .kexp ∨ s.phase = .loadblk ∨ s.phase = .invcipher ∨ s.phase = .cbcxor) : ∃ t, SeqTurn s t := by
  obtain hp | hp | hp | hp := hp <;> simp only [PhaseInv, hp] at h
  · obtain ⟨-, -, -, hki⟩ := h
    obtain hk | ⟨hk, hk'⟩ := hki
    · exact ⟨_, .kexpCopy hp hf hk⟩
    · by_cases hlast : s.ki = 59#6
      · exact ⟨_, .kexpLast hp hf hlast⟩
      · exact ⟨_, .kexpWord hp hf hk (by bv_omega)⟩
  · obtain ⟨ha, -, -, hb⟩ := h
    exact ⟨_, .loadblk hp hf ((ha.blockOffset_fits hb).trans ha.ctlen_fits)⟩
  · obtain ⟨-, -, -, -, hr⟩ := h
    by_cases hfirst : s.rnd = 14#4
    · exact ⟨_, .invFirst hp hf hfirst⟩
    · by_cases hfinal : s.rnd = 0#4
      · exact ⟨_, .invFinal hp hf hfinal⟩
      · exact ⟨_, .invRound hp hf (by bv_omega) (by bv_omega)⟩
  · obtain ⟨ha, -, -, hb⟩ := h
    have hfit := (ha.blockOffset_fits hb).trans ha.ctlen_fits
    by_cases hn : s.blk + 1 < s.ctlen / 16
    · exact ⟨_, .cbcxorNext hp hf hfit hn⟩
    · exact ⟨_, .cbcxorLast hp hf hfit hn⟩

/-- Under the invariant no value that stops the machine is reached (R43). -/
theorem Inv.exists_turn {s : State} (h : Inv s) : ∃ t, SeqTurn s t := by
  have hinv := h.phase
  by_cases hc : s.phase = .kexp ∨ s.phase = .loadblk ∨ s.phase = .invcipher ∨ s.phase = .cbcxor
  · cases hf : s.engineFault
    · exact exists_turn_cryptographic hinv hf hc
    · exact ⟨_, .raise (.engineFault hc hf)⟩
  cases hp : s.phase with
  | kexp => simp [hp] at hc
  | loadblk => simp [hp] at hc
  | invcipher => simp [hp] at hc
  | cbcxor => simp [hp] at hc
  | idle => exact ⟨_, .idle hp⟩
  | done => exact ⟨_, .done hp⟩
  | fail => exact ⟨_, .fail hp⟩
  | wipe => exact ⟨_, .wipe hp⟩
  | validate => exact exists_turn_validate hp
  | padread =>
    simp only [PhaseInv, hp] at hinv
    obtain ⟨b, hb⟩ := hinv.1.exists_lastByte
    exact ⟨_, .padread hp hb⟩
  | padrange =>
    cases hr : padOutOfRange s.p
    · exact ⟨_, .padrange hp hr⟩
    · exact ⟨_, .raise (.padRange hp hr)⟩
  | padlen =>
    by_cases hl : s.ctlen < s.p.toNat
    · exact ⟨_, .raise (.padLength hp hl)⟩
    · exact ⟨_, .padlen hp (Nat.not_lt.1 hl)⟩
  | padfull =>
    simp only [PhaseInv, hp] at hinv
    obtain ⟨b, hb⟩ := hinv.1.exists_lastBlock
    cases hu : paddingUniform s.p b
    · exact ⟨_, .raise (.padBytes hp hb hu)⟩
    · exact ⟨_, .padfull hp hb hu⟩
  | trunc =>
    simp only [PhaseInv, hp] at hinv
    obtain ⟨ha, -, -, -, hle⟩ := hinv
    exact ⟨_, .trunc hp (hle.trans ha.ctlen_pos)⟩

/-- Under the invariant the constructors of `SeqTurn` are all the sequencer can do. -/
theorem Inv.turn_of_sequencerStep {s t : State} (h : Inv s) (ht : sequencerStep s = .next t) : SeqTurn s t := by
  obtain ⟨u, hu⟩ := h.exists_turn
  rw [hu.sequencerStep_eq] at ht
  cases ht
  exact hu

/-! ### Every agent keeps the invariant -/

theorem clearResponse_buf_of_ne (s : State) {b : Buf} (h : b ≠ .dec) : (clearResponse s).buf b = s.buf b := by
  cases b <;> simp only [State.buf, clearResponse_keybuf, clearResponse_ivbuf, clearResponse_ctbuf]
  exact absurd rfl h

/-- The release of a response keeps the invariant, whether the port then rests or begins a request (R127, R137). -/
theorem Inv.released {s : State} {ph : Phase} (h : Inv s) (hd : s.phase = .done) (hph : ph = .idle ∨ ph = .validate) :
    Inv { clearResponse s with phase := ph } := by
  have hinv := h.phase
  simp only [PhaseInv, hd] at hinv
  obtain ⟨hq, he, -⟩ := hinv
  have ht : PhaseInv { clearResponse s with phase := ph } := by
    obtain rfl | rfl := hph <;> exact ⟨hq.frame, ⟨rfl, rfl⟩, by simpa using he⟩
  refine h.of_buffers (u := clearResponse s) ht (fun b => ?_) (fun b => ?_)
  · by_cases hb : b = .dec
    · subst hb
      simpa only [State.buf, clearResponse_dec] using memZeroFrom_wf (h.mem_wf .dec) 0
    · rw [clearResponse_buf_of_ne s hb]
      exact h.mem_wf b
  · by_cases hb : b = .dec
    · subst hb
      simpa only [State.buf, clearResponse_dec] using memZeroFrom_within_of (h.mem_within .dec) 0
    · rw [clearResponse_buf_of_ne s hb]
      exact h.mem_within b

theorem Inv.start {s t : State} (h : Inv s) (ht : execStart s = .next t) : Inv t := by
  unfold execStart at ht
  split_ifs at ht with hidle hdone <;> cases ht
  · have hinv := h.phase
    simp only [PhaseInv, hidle] at hinv
    obtain ⟨hq, hn, he⟩ := hinv
    exact h.of_phaseInv ⟨hq.frame, hn.frame, he⟩
  · exact h.released hdone (.inr rfl)
  · exact h

theorem Inv.clear {s t : State} (h : Inv s) (ht : execClear s = .next t) : Inv t := by
  unfold execClear at ht
  split_ifs at ht with hdone <;> cases ht
  · exact h.released hdone (.inl rfl)
  · exact h

theorem Inv.hostCommand {s t : State} {v : Byte} (h : Inv s) (ht : hostCommand v s = .next t) : Inv t := by
  obtain ⟨-, he⟩ | ⟨-, he⟩ | ⟨-, -, he⟩ := hostCommand_cases v s <;> rw [he] at ht
  · exact h.start ht
  · exact h.clear ht
  · cases ht
    exact h

/-- A host write of lengths, each of its width, at rest. -/
theorem Inv.withLengths {s : State} (h : Inv s) (hb : isBusy s = false) {k i c : Nat} (hk : k < 2 ^ s.params.lenW)
    (hi : i < 2 ^ s.params.lenW) (hc : c < 2 ^ s.params.lenW) : Inv { s with klen := k, ivlen := i, ctlen := c } where
  params := h.params
  mem_wf := h.mem_wf
  mem_within := h.mem_within
  klen := hk
  ivlen := hi
  ctlen := hc
  phase := h.phase.withRequest hb k i c s.keybuf s.ivbuf s.ctbuf

theorem Inv.hostWriteReg {s t : State} {n v : Nat} (h : Inv s) (ht : hostWriteReg n v s = .next t) : Inv t := by
  unfold Machine.hostWriteReg at ht
  split at ht
  · split_ifs at ht
    exact h.hostCommand ht
  · cases ht
    exact h
  · obtain ⟨hv, ⟨-, rfl⟩ | ⟨hb, rfl⟩⟩ := writeLength_next ht
    · exact h
    · exact h.withLengths hb hv h.ivlen h.ctlen
  · obtain ⟨hv, ⟨-, rfl⟩ | ⟨hb, rfl⟩⟩ := writeLength_next ht
    · exact h
    · exact h.withLengths hb h.klen hv h.ctlen
  · obtain ⟨hv, ⟨-, rfl⟩ | ⟨hb, rfl⟩⟩ := writeLength_next ht
    · exact h
    · exact h.withLengths hb h.klen h.ivlen hv
  · cases ht
    exact h
  · cases ht

/-- A host write of request buffers, in canonical form and within their sizes, at rest. -/
theorem Inv.withBuffer {s : State} (h : Inv s) (hb : isBusy s = false) {b : Buf} (hd : b ≠ .dec) {m : Memory}
    (hwf : Memory.wf b m) (hin : Memory.within (b.size s.params) m) : Inv (s.setBuf b m) where
  params := by simpa using h.params
  mem_wf c := by
    by_cases hc : c = b
    · subst hc
      simpa only [buf_setBuf_same] using hwf
    · rw [buf_setBuf_other s b c m hc]
      exact h.mem_wf c
  mem_within c := by
    rw [setBuf_params]
    by_cases hc : c = b
    · subst hc
      simpa only [buf_setBuf_same] using hin
    · rw [buf_setBuf_other s b c m hc]
      exact h.mem_within c
  klen := by simpa using h.klen
  ivlen := by simpa using h.ivlen
  ctlen := by simpa using h.ctlen
  phase := by
    cases b with
    | keybuf => exact h.phase.withRequest hb s.klen s.ivlen s.ctlen m s.ivbuf s.ctbuf
    | ivbuf => exact h.phase.withRequest hb s.klen s.ivlen s.ctlen s.keybuf m s.ctbuf
    | ctbuf => exact h.phase.withRequest hb s.klen s.ivlen s.ctlen s.keybuf s.ivbuf m
    | dec => exact absurd rfl hd

theorem Inv.hostWriteByte {s t : State} {w : Window} {off : Nat} {v : Byte} (h : Inv s)
    (ht : hostWriteByte w off v s = .next t) : Inv t := by
  obtain ⟨hoff, ⟨-, rfl⟩ | ⟨hb, rfl⟩⟩ := hostWriteByte_next ht
  · exact h
  cases w with
  | keybuf =>
    exact h.withBuffer hb (b := .keybuf) (by simp) (memStore_wf (h.mem_wf .keybuf) off v)
      (memStore_within (h.mem_within .keybuf) hoff v)
  | ivbuf =>
    exact h.withBuffer hb (b := .ivbuf) (by simp) (memStore_wf (h.mem_wf .ivbuf) off v)
      (memStore_within (h.mem_within .ivbuf) hoff v)
  | ctbuf =>
    exact h.withBuffer hb (b := .ctbuf) (by simp) (memStore_wf (h.mem_wf .ctbuf) off v)
      (memStore_within (h.mem_within .ctbuf) hoff v)
  | pt => exact h

theorem Inv.handle {s t : State} {e : Event} (h : Inv s) (ht : handle e s = .next t) : Inv t := by
  cases e with
  | tick => exact h.turn (h.turn_of_sequencerStep ht)
  | reset =>
    cases ht
    exact h.applyReset
  | engineFault level =>
    cases ht
    exact h.withEnvironment level s.inputs s.readData
  | writeReg n v => exact h.hostWriteReg ht
  | readReg n =>
    obtain ⟨v, -, rfl⟩ := hostReadReg_next ht
    exact h.withEnvironment s.engineFault s.inputs _
  | writeByte w off v => exact h.hostWriteByte ht
  | readByte w off =>
    obtain ⟨-, rfl⟩ := hostReadByte_next ht
    exact h.withEnvironment s.engineFault s.inputs _

/-- Settles O56: the sequencer's turns by the cases of `SeqTurn`, the other agents' actions by the cases of `handle`. -/
theorem everyStepKeepsInvariant : Obligations.EveryStepKeepsInvariant := by
  intro s t h ht
  cases hi : s.inputs with
  | nil =>
    rw [step_nil hi] at ht
    exact h.turn (h.turn_of_sequencerStep ht)
  | cons e rest =>
    rw [step_cons hi] at ht
    exact (h.withEnvironment s.engineFault rest s.readData).handle ht

/-! ### The host's accesses at rest -/

theorem writeLength_of_rest {s new : State} {v : Nat} (hv : v < 2 ^ s.params.lenW) (hb : isBusy s = false) :
    writeLength v s new = .next new := by
  simp [writeLength, Nat.not_le.2 hv, hb]

theorem hostWriteByte_of_rest {s : State} {w : Window} {off : Nat} {v : Byte} (hoff : off < windowSize w s.params)
    (hb : isBusy s = false) : hostWriteByte w off v s = .next (windowStore w off v s) := by
  simp [hostWriteByte, Nat.not_le.2 hoff, hb]

theorem step_writeByte_of_rest {s : State} {rest : List Event} {w : Window} {off : Nat} {v : Byte}
    (hb : isBusy s = false) (hoff : off < windowSize w s.params) (h : s.inputs = .writeByte w off v :: rest) :
    step s = .next (windowStore w off v { s with inputs := rest }) := by
  rw [step_cons h]
  exact hostWriteByte_of_rest (s := { s with inputs := rest }) hoff hb

/-- Settles O50: each access is one arm of `hostWriteReg` or of `windowStore`, and a stored byte reads back by
`cellByte_memStore`. -/
theorem restingPortTakesWrites : Obligations.RestingPortTakesWrites := by
  intro s rest hb
  have writes {v : Nat} (hv : v < 2 ^ s.params.lenW) (new : State) :
      writeLength v { s with inputs := rest } new = .next new := writeLength_of_rest hv hb
  refine ⟨fun v hv => ⟨fun h => ?_, fun h => ?_, fun h => ?_⟩, ?_, ?_, ?_, ?_, ?_⟩
  · exact (step_cons h).trans (writes hv _)
  · exact (step_cons h).trans (writes hv _)
  · exact (step_cons h).trans (writes hv _)
  · rintro v (h | h) <;> exact step_cons h
  · exact fun off v hoff hwf h =>
      ⟨_, step_writeByte_of_rest hb hoff h, rfl, fun a => cellByte_memStore hwf off a v⟩
  · exact fun off v hoff hwf h =>
      ⟨_, step_writeByte_of_rest hb hoff h, rfl, fun a => cellByte_memStore hwf off a v⟩
  · exact fun off v hoff hwf h =>
      ⟨_, step_writeByte_of_rest hb hoff h, rfl, fun a => cellByte_memStore hwf off a v⟩
  · exact fun off v hoff h => step_writeByte_of_rest hb hoff h

/-! ### The host's reads -/

theorem step_readReg {s : State} {rest : List Event} {n v : Nat} (h : s.inputs = .readReg n :: rest)
    (hv : regValue n s = some v) : step s = .next { s with inputs := rest, readData := some (.reg v) } := by
  have hv' : regValue n { s with inputs := rest } = some v := hv
  rw [step_cons h, handle, hostReadReg, hv']

theorem step_readByte {s : State} {rest : List Event} {w : Window} {off : Nat} (h : s.inputs = .readByte w off :: rest)
    (hoff : off < windowSize w s.params) :
    step s = .next { s with inputs := rest, readData := some (.byte (windowByte w off s)) } := by
  rw [step_cons h]
  exact if_neg (Nat.not_le.2 hoff)

/-- The registers with a number below 6 are the assigned ones (R21, R69). -/
theorem exists_regValue {n : Nat} (hn : n < 6) (s : State) : ∃ v, regValue n s = some v := by
  interval_cases n <;> exact ⟨_, rfl⟩

/-- Settles O54: a read answers `regValue` or `windowByte` of the state it finds, and records nothing else. -/
theorem hostReadsChangeNothing : Obligations.HostReadsChangeNothing := by
  rintro s e rest h hin (⟨n, rfl⟩ | ⟨w, off, rfl⟩)
  · obtain ⟨v, hv⟩ := exists_regValue (Nat.not_le.1 hin) s
    have answer {k u : Nat} (hu : regValue k s = some u) (he : Event.readReg n = .readReg k) :
        ReadData.reg v = .reg u := by
      cases he
      rw [Option.some.inj (hv.symm.trans hu)]
    exact ⟨.reg v, step_readReg h hv, answer rfl, answer rfl, answer rfl, answer rfl, answer rfl, by simp, by simp⟩
  · refine ⟨.byte (windowByte w off s), step_readByte h (Nat.not_le.1 hin), ?_⟩
    refine ⟨nofun, nofun, nofun, nofun, nofun, ?_, ?_⟩
    · rintro o (he | he) <;> cases he <;> rfl
    · rintro o he
      cases he
      rfl

/-! ### Reset -/

theorem statByte_of_idle {s : State} (h : s.phase = .idle) : statByte s = 0x00#8 := by
  have hd : isDone s = false := by simp [isDone, h]
  have hb : isBusy s = false := isBusy_eq_false.2 (.inl h)
  simp [statByte, statusField, hd, hb]

theorem ptlenRead_of_not_done {s : State} (h : isDone s = false) : ptlenRead s = 0 := by
  simp [ptlenRead, h]

theorem ptByte_of_not_done {s : State} (h : isDone s = false) (j : Nat) : ptByte s j = 0x00#8 := by
  simp [ptByte, ptOpen, h]

/-- Settles O29: `applyReset` is the reset state but for what it keeps, and in `IDLE` the port shows nothing. -/
theorem resetLeavesResetState : Obligations.ResetLeavesResetState := by
  intro s rest h
  refine ⟨applyReset { s with inputs := rest }, by rw [step_cons h, handle], by simp only [applyReset, State.reset],
    statByte_of_idle (by simp), ptlenRead_of_not_done (by simp [isDone]), ptByte_of_not_done (by simp [isDone])⟩

/-! ### Buffers that read alike -/

/-- A byte of a buffer with a default is listed exactly where it differs from the default. -/
theorem memLookup_of_wf {b : Buf} {m : Memory} {u : Byte} (hu : b.unlisted = some u) (hm : Memory.wf b m) (a : Nat) :
    memLookup m a = if cellByte b m a = u then none else some (cellByte b m a) := by
  unfold cellByte
  cases h : memLookup m a with
  | none => simp [hu]
  | some v =>
    have hne : v ≠ u := fun e => hm.2 _ (mem_of_memLookup h) (by rw [hu, e])
    simp [hne]

theorem memLookup_of_within {m : Memory} {n a : Nat} (hm : Memory.within n m) (ha : n ≤ a) : memLookup m a = none := by
  cases h : memLookup m a with
  | none => rfl
  | some v => exact absurd (hm _ (mem_of_memLookup h)) (Nat.not_lt.2 ha)

/-- Two contents of a buffer with a default, in canonical form and within its size, that read alike there are equal. -/
theorem memory_ext_of_cellByte {b : Buf} {m m' : Memory} {u : Byte} {n : Nat} (hu : b.unlisted = some u)
    (hm : Memory.wf b m) (hm' : Memory.wf b m') (hn : Memory.within n m) (hn' : Memory.within n m')
    (h : ∀ a, a < n → cellByte b m a = cellByte b m' a) : m = m' := by
  refine memory_wf_ext hm hm' fun a => ?_
  by_cases ha : a < n
  · rw [memLookup_of_wf hu hm, memLookup_of_wf hu hm', h a ha]
  · rw [memLookup_of_within hn (Nat.not_lt.1 ha), memLookup_of_within hn' (Nat.not_lt.1 ha)]

/-- The wipe of a whole buffer leaves nothing listed. -/
theorem memStoreBytes_zeros {b : Buf} {m : Memory} {n : Nat} (hu : b.unlisted = some 0x00#8) (hm : Memory.wf b m)
    (hn : Memory.within n m) : memStoreBytes b m 0 (List.replicate n 0x00#8) = [] := by
  refine memory_ext_of_cellByte hu (memStoreBytes_wf hm 0 _) (by simp [Memory.wf]) (memStoreBytes_within hn (by simp))
    (by simp [Memory.within]) fun a ha => ?_
  rw [cellByte_memStoreBytes hm, if_pos (by simpa using ha)]
  simp [cellByte, memLookup, hu, ha]

/-! ### A completed and cleared request -/

/-- The reset state but for what the host owns, the inputs of the core and the model's own fields (R38, R39). -/
def cleared (s : State) : State :=
  { State.reset with
    klen := s.klen
    ivlen := s.ivlen
    ctlen := s.ctlen
    ctbuf := s.ctbuf
    engineFault := s.engineFault
    params := s.params
    readData := s.readData
    pureValue := s.pureValue }

/-- `WIPE` followed by the release of the response (R135, R137). -/
theorem clearResponse_wiped {s : State} (h : Inv s) (es : List Event) :
    { clearResponse { wiped s with phase := .done, inputs := es } with phase := .idle, inputs := [] } = cleared s := by
  have hk : memStoreBytes .keybuf s.keybuf 0 (List.replicate 32 0x00#8) = [] :=
    memStoreBytes_zeros rfl (h.mem_wf .keybuf) (h.mem_within .keybuf)
  have hi : memStoreBytes .ivbuf s.ivbuf 0 (List.replicate 16 0x00#8) = [] :=
    memStoreBytes_zeros rfl (h.mem_wf .ivbuf) (h.mem_within .ivbuf)
  simp only [clearResponse, wiped, cleared, State.reset, hk, hi, memZeroFrom_zero]

theorem step_tick_wipe {s : State} {rest : List Event} (hp : s.phase = .wipe) (h : s.inputs = .tick :: rest) :
    step s = .next { wiped s with phase := .done, inputs := rest } := by
  rw [step_cons h]
  exact (SeqTurn.wipe (s := { s with inputs := rest }) hp).sequencerStep_eq

theorem step_clear_of_done {s : State} {rest : List Event} (hp : s.phase = .done)
    (h : s.inputs = .writeReg 0 0x02 :: rest) :
    step s = .next { clearResponse s with phase := .idle, inputs := rest } := by
  rw [step_cons h]
  exact if_pos hp

/-- Settles O30: what the wipe and the release of the response leave is `cleared`. -/
theorem clearedRequestLeavesResetState : Obligations.ClearedRequestLeavesResetState := by
  intro s h hp hi
  rw [runSteps_next (step_tick_wipe hp hi), runSteps_next (step_clear_of_done rfl rfl), runSteps]
  exact congrArg some (clearResponse_wiped h _)

/-! ### How long a request takes -/

theorem SeqTurn.inputs_eq {s t : State} (ht : SeqTurn s t) : t.inputs = s.inputs := by
  cases ht <;> simp

/-- The steps of the sequencer from a phase of a request until `DONE`, when nothing is raised on the way (R139). -/
def stepsLeft (s : State) : Nat :=
  match s.phase with
  | .idle => 0
  | .validate => 60 + 17 * (s.ctlen / 16)
  | .kexp => (if s.ki = 0#6 then 53 else 60 - s.ki.toNat) + 17 * (s.ctlen / 16) + 6
  | .loadblk => 17 * (s.ctlen / 16 - s.blk) + 6
  | .invcipher => s.rnd.toNat + 17 * (s.ctlen / 16 - s.blk - 1) + 8
  | .cbcxor => 17 * (s.ctlen / 16 - s.blk - 1) + 7
  | .padread => 6
  | .padrange => 5
  | .padlen => 4
  | .padfull => 3
  | .trunc => 2
  | .fail => 2
  | .wipe => 1
  | .done => 0

/-- A raise leaves two steps, `FAIL` and `WIPE`, and is made where more are left. -/
theorem Raises.three_le_stepsLeft {s : State} {k : ErrorKind} (hr : Raises s k) : 3 ≤ stepsLeft s := by
  cases hr with
  | engineFault hp => obtain hp | hp | hp | hp := hp <;> simp only [stepsLeft, hp] <;> omega
  | _ hp => simp only [stepsLeft, hp]; omega

/-- Every turn of a request brings `DONE` nearer. -/
theorem SeqTurn.stepsLeft_le {s t : State} (ht : SeqTurn s t) (h : PhaseInv s) : stepsLeft t ≤ stepsLeft s - 1 := by
  cases ht with
  | idle hp => simp [stepsLeft, hp]
  | done hp => simp [stepsLeft, hp]
  | raise hr =>
    have := hr.three_le_stepsLeft
    simp only [stepsLeft, raise_phase] at this ⊢
    omega
  | accept hp =>
    simp only [PhaseInv, hp] at h
    obtain ⟨hq, -⟩ := h
    simp only [stepsLeft, hp, hq.ki, ↓reduceIte]
    omega
  | kexpCopy hp hf hk => simp [stepsLeft, hp, hk]
  | kexpWord hp hf hk hk' =>
    have hne : s.ki ≠ 0#6 := fun e => by simp [e] at hk
    have hki : (s.ki + 1#6).toNat = s.ki.toNat + 1 := by bv_omega
    have hne' : s.ki + 1#6 ≠ 0#6 := fun e => by simp [e] at hki
    simp only [stepsLeft, kexpWord_phase, kexpWord_ki, kexpWord_ctlen, hp, hki, if_neg hne, if_neg hne']
    omega
  | kexpLast hp hf hk => simp [stepsLeft, hp, hk]
  | loadblk hp hf hb =>
    simp only [PhaseInv, hp] at h
    obtain ⟨-, -, -, hblk⟩ := h
    simp only [stepsLeft, hp, BitVec.reduceToNat]
    omega
  | invFirst hp hf hr => simp [stepsLeft, hp, hr]
  | invRound hp hf hr hr' =>
    have hrnd : (s.rnd - 1#4).toNat = s.rnd.toNat - 1 := by bv_omega
    simp only [stepsLeft, hp, hrnd]
    omega
  | invFinal hp hf hr => simp [stepsLeft, hp, hr]
  | cbcxorNext hp hf hb hn =>
    simp only [stepsLeft, hp, blockStored_ctlen]
    omega
  | cbcxorLast hp hf hb hn => simp [stepsLeft, hp]
  | padread hp hb => simp [stepsLeft, hp]
  | padrange hp => simp [stepsLeft, hp]
  | padlen hp => simp [stepsLeft, hp]
  | padfull hp => simp [stepsLeft, hp]
  | trunc hp => simp [stepsLeft, hp]
  | fail hp => simp [stepsLeft, hp]
  | wipe hp => simp [stepsLeft, hp]

/-- No turn goes back to `IDLE`: a request ends in `DONE`. -/
theorem SeqTurn.phase_ne_idle {s t : State} (ht : SeqTurn s t) (h : s.phase ≠ .idle) : t.phase ≠ .idle := by
  cases ht <;> simp_all

theorem step_of_turn {s t : State} (hi : s.inputs = []) (ht : SeqTurn s t) : step s = .next t := by
  rw [step_nil hi, ht.sequencerStep_eq]

/-- With the host quiet, a request is in `DONE` after at least the steps that are left (R139, R155). -/
theorem runSteps_reaches_done {n : Nat} {s : State} (h : Inv s) (hi : s.inputs = []) (hp : s.phase ≠ .idle)
    (hn : stepsLeft s ≤ n) : ∃ t, runSteps n s = some t ∧ t.phase = .done := by
  induction n generalizing s with
  | zero =>
    refine ⟨s, rfl, ?_⟩
    cases hs : s.phase <;> simp_all [stepsLeft]
  | succ n ih =>
    obtain ⟨t, ht⟩ := h.exists_turn
    have hle := ht.stepsLeft_le h.phase
    rw [runSteps_next (step_of_turn hi ht)]
    exact ih (h.turn ht) (ht.inputs_eq.trans hi) (ht.phase_ne_idle hp) (by omega)

/-! ### What a request cannot see -/

/-- The fields a request reads only in part or not at all: `CTBUF` beyond `CTLEN`, `DEC` beyond what the request has
decrypted, and the model's own two values. -/
structure Unseen where
  ctbuf : Memory
  dec : Memory
  readData : Option ReadData
  pureValue : Option PureValue

/-- The state with other contents of the unseen fields. -/
def State.withUnseen (s : State) (u : Unseen) : State :=
  { s with ctbuf := u.ctbuf, dec := u.dec, readData := u.readData, pureValue := u.pureValue }

/-- How many bytes of `DEC` the request in progress has decrypted, or has released (R107, R135). -/
def decryptedLength (s : State) : Nat :=
  match s.phase with
  | .idle | .validate | .kexp | .fail => 0
  | .loadblk | .invcipher | .cbcxor => 16 * s.blk
  | .padread | .padrange | .padlen | .padfull | .trunc => s.ctlen
  | .wipe | .done => s.ptlen

/-- The part of the unseen fields that the request does read is as in the state. -/
structure Agrees (s : State) (u : Unseen) : Prop where
  ct : ∀ j, j < s.ctlen → s.byteAt .ctbuf j = cellByte .ctbuf u.ctbuf j
  dec : ∀ j, j < decryptedLength s → s.byteAt .dec j = cellByte .dec u.dec j

/-- An action that leaves `CTBUF`, `CTLEN` and `DEC` and decrypts nothing keeps the agreement. -/
theorem Agrees.frame {s t : State} {u : Unseen} (h : Agrees s u) (hle : decryptedLength t ≤ decryptedLength s)
    (hreg : (t.ctlen, t.ctbuf, t.dec) = (s.ctlen, s.ctbuf, s.dec) := by simp) : Agrees t u := by
  simp only [Prod.mk.injEq] at hreg
  obtain ⟨hlen, hct, hdec⟩ := hreg
  refine ⟨fun j hj => ?_, fun j hj => ?_⟩
  · rw [byteAt_congr (s := s) (by simp only [State.buf, hct])]
    exact h.ct j (hlen ▸ hj)
  · rw [byteAt_congr (s := s) (by simp only [State.buf, hdec])]
    exact h.dec j (hj.trans_le hle)

/-! What the phases read of a state is not among the unseen fields, or is in the part that agrees. -/

theorem lastByte_withUnseen {s : State} {u : Unseen} {b : Byte} (h : Agrees s u) (hd : decryptedLength s = s.ctlen)
    (hb : lastByte s = some b) : lastByte (s.withUnseen u) = some b := by
  obtain ⟨hpos, hfit, rfl⟩ := lastByte_eq_some.1 hb
  exact lastByte_eq_some.2 ⟨hpos, hfit, h.dec _ (by omega)⟩

theorem lastBlock_withUnseen {s : State} {u : Unseen} {b : Block} (h : Agrees s u) (hd : decryptedLength s = s.ctlen)
    (hb : lastBlock s = some b) : lastBlock (s.withUnseen u) = some b := by
  obtain ⟨hpos, hfit, rfl⟩ := lastBlock_eq_some.1 hb
  refine lastBlock_eq_some.2 ⟨hpos, hfit, congrArg Vector.ofFn (funext fun j => h.dec _ ?_)⟩
  have := j.isLt
  omega

theorem ctBlock_withUnseen {s : State} {u : Unseen} (h : Agrees s u) (hfit : blockOffset s + 16 ≤ s.ctlen) :
    ctBlock (s.withUnseen u) = ctBlock s :=
  congrArg Vector.ofFn (funext fun j => (h.ct (blockOffset s + j.val) (by have := j.isLt; omega)).symm)

theorem kexpCopy_withUnseen (s : State) (u : Unseen) :
    Machine.kexpCopy (s.withUnseen u) = (Machine.kexpCopy s).withUnseen u := by
  have hkey : keyOperand (s.withUnseen u) = keyOperand s := rfl
  unfold Machine.kexpCopy
  rw [hkey]
  simp only [State.withUnseen]

theorem kexpWord_withUnseen (s : State) (u : Unseen) :
    Machine.kexpWord (s.withUnseen u) = (Machine.kexpWord s).withUnseen u := by
  simp only [Machine.kexpWord, State.withUnseen]

/-- The checks of a request do not depend on what it cannot see. -/
theorem Raises.withUnseen {s : State} {u : Unseen} {k : ErrorKind} (hr : Raises s k) (h : Agrees s u) :
    Raises (s.withUnseen u) k := by
  cases hr with
  | keyLength hp hk => exact .keyLength hp hk
  | ivLength hp hk hi => exact .ivLength hp hk hi
  | ctLength hp hk hi hc => exact .ctLength hp hk hi hc
  | capacity hp hk hi hc hm => exact .capacity hp hk hi hc hm
  | engineFault hp hf => exact .engineFault hp hf
  | padRange hp hr => exact .padRange hp hr
  | padLength hp hl => exact .padLength hp hl
  | padBytes hp hb hu => exact .padBytes hp (lastBlock_withUnseen h (by simp [decryptedLength, hp]) hb) hu

/-- The unseen fields after `CBCXOR` has stored a block. -/
def Unseen.stored (u : Unseen) (s : State) : Unseen :=
  { u with dec := memStoreBytes .dec u.dec (blockOffset s) (xorBlock s.sreg s.prev).toList }

@[simp] theorem Unseen.stored_ctbuf (u : Unseen) (s : State) : (u.stored s).ctbuf = u.ctbuf := by
  simp only [Unseen.stored]

theorem blockStored_withUnseen (s : State) (u : Unseen) :
    blockStored (s.withUnseen u) = (blockStored s).withUnseen (u.stored s) := by
  simp only [blockStored, State.withUnseen, Unseen.stored, blockOffset]

/-- The stored block agrees: it is made of registers. -/
theorem Agrees.stored {s t : State} {u : Unseen} (h : Agrees s u) (hs : Memory.wf .dec s.dec) (hu : Memory.wf .dec u.dec)
    (hd : decryptedLength s = blockOffset s) (hle : decryptedLength t ≤ blockOffset s + 16)
    (hreg : (t.ctlen, t.ctbuf, t.dec) = (s.ctlen, s.ctbuf, (blockStored s).dec) := by simp) : Agrees t (u.stored s) := by
  simp only [Prod.mk.injEq] at hreg
  obtain ⟨hlen, hct, hdec⟩ := hreg
  refine ⟨fun j hj => ?_, fun j hj => ?_⟩
  · rw [byteAt_congr (s := s) (by simp only [State.buf, hct])]
    simpa using h.ct j (hlen ▸ hj)
  · have hread : t.byteAt .dec j = cellByte .dec (blockStored s).dec j := by simp only [State.byteAt, State.buf, hdec]
    rw [hread, blockStored_dec, Unseen.stored, cellByte_memStoreBytes hs, cellByte_memStoreBytes hu]
    by_cases hj' : j < blockOffset s
    · have hold := h.dec j (hd ▸ hj')
      simp only [State.byteAt, State.buf] at hold
      rw [hold]
    · have hin : blockOffset s ≤ j ∧ j < blockOffset s + (xorBlock s.sreg s.prev).toList.length := by
        simp only [Vector.length_toList]
        omega
      rw [if_pos hin, if_pos hin]

/-- The unseen fields after the wipe. -/
def Unseen.wiped (u : Unseen) (s : State) : Unseen := { u with dec := memZeroFrom u.dec (keptByWipe s) }

@[simp] theorem Unseen.wiped_ctbuf (u : Unseen) (s : State) : (u.wiped s).ctbuf = u.ctbuf := by
  simp only [Unseen.wiped]

theorem keptByWipe_withUnseen (s : State) (u : Unseen) : keptByWipe (s.withUnseen u) = keptByWipe s := rfl

theorem wiped_withUnseen (s : State) (u : Unseen) :
    Machine.wiped (s.withUnseen u) = (Machine.wiped s).withUnseen (u.wiped s) := by
  unfold Machine.wiped
  rw [keptByWipe_withUnseen]
  simp only [State.withUnseen, Unseen.wiped]

/-- The wipe keeps the same bytes of both, and zeroes the others (R135). -/
theorem Agrees.wiped {s : State} {u : Unseen} (h : Agrees s u) (hp : s.phase = .wipe) :
    Agrees { Machine.wiped s with phase := .done } (u.wiped s) := by
  refine ⟨fun j hj => ?_, fun j hj => ?_⟩
  · have hold := h.ct j (by simpa using hj)
    simpa [State.byteAt, State.buf] using hold
  · have hold := h.dec j (by simpa [decryptedLength, hp] using hj)
    simp only [State.byteAt, State.buf] at hold
    simp only [State.byteAt, State.buf, wiped_dec, Unseen.wiped, cellByte_memZeroFrom_dec, hold]

/-- The turns of a request do not depend on what it cannot see. -/
theorem SeqTurn.withUnseen {s t : State} {u : Unseen} (ht : SeqTurn s t) (h : Inv s) (hu : Inv (s.withUnseen u))
    (ha : Agrees s u) : ∃ u', SeqTurn (s.withUnseen u) (t.withUnseen u') ∧ Agrees t u' := by
  have hinv := h.phase
  cases ht with
  | idle hp => exact ⟨u, .idle hp, ha⟩
  | done hp => exact ⟨u, .done hp, ha⟩
  | raise hr => exact ⟨u, .raise (hr.withUnseen ha), ha.frame (by simp [decryptedLength])⟩
  | accept hp hk hi hc hm => exact ⟨u, .accept hp hk hi hc hm, ha.frame (by simp [decryptedLength])⟩
  | kexpCopy hp hf hk =>
    have ht := SeqTurn.kexpCopy (s := s.withUnseen u) hp hf hk
    rw [kexpCopy_withUnseen] at ht
    exact ⟨u, ht, ha.frame (by simp [decryptedLength, hp])⟩
  | kexpWord hp hf hk hk' =>
    have ht := SeqTurn.kexpWord (s := s.withUnseen u) hp hf hk hk'
    rw [kexpWord_withUnseen] at ht
    exact ⟨u, ht, ha.frame (by simp [decryptedLength, hp])⟩
  | kexpLast hp hf hk =>
    have ht := SeqTurn.kexpLast (s := s.withUnseen u) hp hf hk
    rw [kexpWord_withUnseen] at ht
    exact ⟨u, by simpa only [State.withUnseen] using ht, ha.frame (by simp [decryptedLength])⟩
  | loadblk hp hf hb =>
    simp only [PhaseInv, hp] at hinv
    obtain ⟨hacc, -, -, hblk⟩ := hinv
    have ht := SeqTurn.loadblk (s := s.withUnseen u) hp hf hb
    rw [ctBlock_withUnseen ha (hacc.blockOffset_fits hblk)] at ht
    exact ⟨u, ht, ha.frame (by simp [decryptedLength, hp])⟩
  | invFirst hp hf hr => exact ⟨u, .invFirst hp hf hr, ha.frame (by simp [decryptedLength])⟩
  | invRound hp hf hr hr' => exact ⟨u, .invRound hp hf hr hr', ha.frame (by simp [decryptedLength])⟩
  | invFinal hp hf hr => exact ⟨u, .invFinal hp hf hr, ha.frame (by simp [decryptedLength, hp])⟩
  | cbcxorNext hp hf hb hn =>
    have ht := SeqTurn.cbcxorNext (s := s.withUnseen u) hp hf hb hn
    rw [blockStored_withUnseen] at ht
    refine ⟨u.stored s, by simpa only [State.withUnseen] using ht, ha.stored (h.mem_wf .dec) (hu.mem_wf .dec)
      (by simp [decryptedLength, hp, blockOffset]) ?_⟩
    simp only [decryptedLength, blockOffset]
    omega
  | cbcxorLast hp hf hb hn =>
    simp only [PhaseInv, hp] at hinv
    obtain ⟨hacc, -, -, hblk⟩ := hinv
    have halign := hacc.ctlen_aligned
    have ht := SeqTurn.cbcxorLast (s := s.withUnseen u) hp hf hb hn
    rw [blockStored_withUnseen] at ht
    refine ⟨u.stored s, by simpa only [State.withUnseen] using ht, ha.stored (h.mem_wf .dec) (hu.mem_wf .dec)
      (by simp [decryptedLength, hp, blockOffset]) ?_⟩
    simp only [decryptedLength, blockOffset, blockStored_ctlen]
    omega
  | padread hp hb =>
    exact ⟨u, .padread (s := s.withUnseen u) hp (lastByte_withUnseen ha (by simp [decryptedLength, hp]) hb),
      ha.frame (by simp [decryptedLength, hp])⟩
  | padrange hp hr => exact ⟨u, .padrange hp hr, ha.frame (by simp [decryptedLength, hp])⟩
  | padlen hp hl => exact ⟨u, .padlen hp hl, ha.frame (by simp [decryptedLength, hp])⟩
  | padfull hp hb hl =>
    exact ⟨u, .padfull (s := s.withUnseen u) hp (lastBlock_withUnseen ha (by simp [decryptedLength, hp]) hb) hl,
      ha.frame (by simp [decryptedLength, hp])⟩
  | trunc hp hl => exact ⟨u, .trunc hp hl, ha.frame (by simp [decryptedLength, hp])⟩
  | fail hp => exact ⟨u, .fail hp, ha.frame (by simp [decryptedLength])⟩
  | wipe hp =>
    have ht := SeqTurn.wipe (s := s.withUnseen u) hp
    rw [wiped_withUnseen] at ht
    exact ⟨u.wiped s, by simpa only [State.withUnseen] using ht, ha.wiped hp⟩

/-- The runs of a request do not depend on what it cannot see (R20, R125). -/
theorem runSteps_withUnseen {n : Nat} {s t : State} {u : Unseen} (h : Inv s) (hu : Inv (s.withUnseen u)) (ha : Agrees s u)
    (hi : s.inputs = []) (hrun : runSteps n s = some t) :
    ∃ u', runSteps n (s.withUnseen u) = some (t.withUnseen u') ∧ Agrees t u' := by
  induction n generalizing s u with
  | zero =>
    cases hrun
    exact ⟨u, rfl, ha⟩
  | succ n ih =>
    obtain ⟨v, hv⟩ := h.exists_turn
    obtain ⟨u', hv', ha'⟩ := hv.withUnseen h hu ha
    rw [runSteps_next (step_of_turn hi hv)] at hrun
    rw [runSteps_next (step_of_turn (s := s.withUnseen u) hi hv')]
    exact ih (h.turn hv) (hu.turn hv') ha' (hv.inputs_eq.trans hi) hrun

/-- In `DONE` the host reads the same `PT` (R51). -/
theorem ptByte_withUnseen {s : State} {u : Unseen} (hp : s.phase = .done) (ha : Agrees s u) (j : Nat) :
    ptByte (s.withUnseen u) j = ptByte s j := by
  have hopen : ptOpen (s.withUnseen u) j = ptOpen s j := rfl
  unfold ptByte
  rw [hopen]
  split_ifs with ho
  · simp only [ptOpen, Bool.and_eq_true, decide_eq_true_eq] at ho
    exact (ha.dec j (by simpa [decryptedLength, hp] using ho.2)).symm
  · rfl

/-! ### The start of a request -/

/-- The state in which a request begins: the reset state but for what the host owns, the contents `d` of `DEC`, and the phase
(R38, R127). -/
def begun (s : State) (d : Memory) : State :=
  { cleared s with keybuf := s.keybuf, ivbuf := s.ivbuf, dec := d, phase := .validate }

theorem step_start_of_idle {s : State} {rest : List Event} (hp : s.phase = .idle)
    (h : s.inputs = .writeReg 0 0x01 :: rest) : step s = .next { s with phase := .validate, inputs := rest } := by
  rw [step_cons h]
  exact if_pos hp

theorem step_start_of_done {s : State} {rest : List Event} (hp : s.phase = .done)
    (h : s.inputs = .writeReg 0 0x01 :: rest) :
    step s = .next { clearResponse s with phase := .validate, inputs := rest } := by
  rw [step_cons h]
  exact (if_neg (by simp [hp])).trans (if_pos hp)

/-- `START` at rest: nothing of an earlier request is left but what `DEC` holds (R127, R38). -/
theorem step_start_of_rest {s : State} (h : Inv s) (hp : s.phase = .idle ∨ s.phase = .done)
    (hi : s.inputs = [.writeReg 0 0x01]) : ∃ d, step s = .next (begun s d) := by
  have hinv := h.phase
  obtain hp | hp := hp <;> simp only [PhaseInv, hp] at hinv
  · obtain ⟨hq, hn, he⟩ := hinv
    refine ⟨s.dec, (step_start_of_idle hp hi).trans (congrArg _ ?_)⟩
    simp only [begun, cleared, State.reset, hq.w, hq.sreg, hq.prev, hq.cur, hq.p, hq.blk, hq.rnd, hq.ki, hn.status,
      hn.ptlen, he]
  · obtain ⟨hq, he, -⟩ := hinv
    refine ⟨[], (step_start_of_done hp hi).trans (congrArg _ ?_)⟩
    simp only [begun, cleared, State.reset, clearResponse, memZeroFrom_zero, hq.w, hq.sreg, hq.prev, hq.cur, hq.p, hq.blk,
      hq.rnd, hq.ki, he]

/-- Settles O59: both requests begin in `begun`, where the one state is the other with its unseen fields replaced; their runs
stay so related, and the response is not among the unseen fields. -/
theorem equalRequestsGiveEqualResponses : Obligations.EqualRequestsGiveEqualResponses := by
  intro s s' h h' hp hp' hparams hfault hk hi hc hkey hiv hct hin hin'
  obtain ⟨d, hstep⟩ := step_start_of_rest h hp hin
  obtain ⟨d', hstep'⟩ := step_start_of_rest h' hp' hin'
  have hkeybuf : s.keybuf = s'.keybuf := memory_ext_of_cellByte rfl (h.mem_wf .keybuf) (h'.mem_wf .keybuf)
    (h.mem_within .keybuf) (h'.mem_within .keybuf) hkey
  have hivbuf : s.ivbuf = s'.ivbuf := memory_ext_of_cellByte rfl (h.mem_wf .ivbuf) (h'.mem_wf .ivbuf)
    (h.mem_within .ivbuf) (h'.mem_within .ivbuf) hiv
  have hsame : begun s' d' = (begun s d).withUnseen ⟨s'.ctbuf, d', s'.readData, s'.pureValue⟩ := by
    simp only [begun, cleared, State.withUnseen, hparams, hfault, hk, hi, hc, hkeybuf, hivbuf]
  have hbegun := everyStepKeepsInvariant _ _ h hstep
  have hbegun' := everyStepKeepsInvariant _ _ h' hstep'
  rw [hsame] at hstep' hbegun'
  obtain ⟨t, hrun, hdone⟩ := runSteps_reaches_done (n := 60 + 17 * (s.ctlen / 16)) hbegun rfl nofun le_rfl
  have hagrees : Agrees (begun s d) ⟨s'.ctbuf, d', s'.readData, s'.pureValue⟩ := ⟨hct, nofun⟩
  obtain ⟨u, hrun', hu⟩ := runSteps_withUnseen hbegun hbegun' hagrees rfl hrun
  refine ⟨t, t.withUnseen u, ?_, ?_, hdone, hdone, rfl, rfl, fun j => (ptByte_withUnseen hdone hu j).symm⟩
  · rw [Nat.add_comm, runSteps_next hstep, hrun]
  · rw [Nat.add_comm, runSteps_next hstep', hrun']

end Sys2Proof.Machine
end

/-! PROOFS. The host's port, and what stops the machine (spec/20_memory.md R41, R43, R51, R52; spec/30_encoding.md R69;
spec/45_decrypt_operation.md R127, R137; spec/70_reset_and_hazards.md R170; spec/93_implementation_defined.md U11).

`hostWriteReg_cases` and `hostWriteByte_cases` say once what a write can do. Outside the port every access is refused, by
`portRefusal`; inside it every access completes, and a write while `BUSY = 1` leaves the state as it is. With the turn that the
invariant gives the sequencer, every step inside the port completes. -/

namespace Sys2Proof.Machine

/-! ### What a write can do -/

theorem writeLength_of_fits {s : State} {v : Nat} (hv : v < 2 ^ s.params.lenW) (new : State) :
    writeLength v s new = .next (if isBusy s then s else new) := by
  rw [writeLength, if_neg (Nat.not_le.2 hv)]
  split <;> rfl

theorem writeLength_of_tooWide {s : State} {v : Nat} (hv : 2 ^ s.params.lenW ≤ v) (new : State) :
    writeLength v s new = .refused .valueTooWide := if_pos hv

/-- A write of the three length registers, which differ in the field alone (R24). -/
theorem hostWriteReg_length {n : Nat} (hn : 2 ≤ n) (hn' : n ≤ 4) (v : Nat) (s : State) :
    ∃ new, hostWriteReg n v s = writeLength v s new := by
  interval_cases n <;> exact ⟨_, rfl⟩

theorem hostWriteReg_unassigned {n : Nat} (hn : 6 ≤ n) (v : Nat) (s : State) :
    hostWriteReg n v s = .refused .unassignedRegister := by
  obtain ⟨k, rfl⟩ := Nat.exists_eq_add_of_le' hn
  rfl

/-- A register write inside the port is a command, is ignored, or is a length, which is taken at rest; outside the port it is
refused. -/
theorem hostWriteReg_cases (n v : Nat) (s : State) :
    (n = 0 ∧ v < 256 ∧ hostWriteReg n v s = hostCommand (BitVec.ofNat 8 v) s) ∨
      ((n = 1 ∨ n = 5) ∧ hostWriteReg n v s = .next s) ∨
      (2 ≤ n ∧ n ≤ 4 ∧ v < 2 ^ s.params.lenW ∧
        ∃ new, hostWriteReg n v s = .next (if isBusy s then s else new)) ∨
      (OutsidePort s.params (.writeReg n v) ∧
        hostWriteReg n v s = .refused (if 6 ≤ n then .unassignedRegister else .valueTooWide)) := by
  by_cases hassigned : 6 ≤ n
  · exact .inr (.inr (.inr ⟨.inl hassigned, by rw [if_pos hassigned, hostWriteReg_unassigned hassigned]⟩))
  by_cases hlength : 2 ≤ n ∧ n ≤ 4
  · obtain ⟨hn, hn'⟩ := hlength
    obtain ⟨new, hw⟩ := hostWriteReg_length hn hn' v s
    by_cases hv : v < 2 ^ s.params.lenW
    · exact .inr (.inr (.inl ⟨hn, hn', hv, new, by rw [hw, writeLength_of_fits hv]⟩))
    · have hv' := Nat.not_lt.1 hv
      exact .inr (.inr (.inr ⟨.inr (.inr ⟨hn, hn', hv'⟩), by rw [hw, writeLength_of_tooWide hv', if_neg hassigned]⟩))
  obtain rfl | rfl | rfl : n = 0 ∨ n = 1 ∨ n = 5 := by omega
  · by_cases hv : v < 256
    · exact .inl ⟨rfl, hv, if_pos hv⟩
    · exact .inr (.inr (.inr ⟨.inr (.inl ⟨rfl, Nat.not_lt.1 hv⟩), if_neg hv⟩))
  · exact .inr (.inl ⟨.inl rfl, rfl⟩)
  · exact .inr (.inl ⟨.inr rfl, rfl⟩)

/-- A byte write inside its window is taken at rest; outside it is refused. -/
theorem hostWriteByte_cases (w : Window) (off : Nat) (v : Byte) (s : State) :
    (off < windowSize w s.params ∧ hostWriteByte w off v s = .next (if isBusy s then s else windowStore w off v s)) ∨
      (windowSize w s.params ≤ off ∧ hostWriteByte w off v s = .refused .outsideWindow) := by
  by_cases hoff : windowSize w s.params ≤ off
  · exact .inr ⟨hoff, if_pos hoff⟩
  · refine .inl ⟨Nat.not_le.1 hoff, ?_⟩
    rw [hostWriteByte, if_neg hoff]
    split <;> rfl

/-! ### Outside the port -/

/-- The name under which an access outside the port is refused (R41, R69, R170; log entry 9). -/
def portRefusal : Event → Refusal
  | .writeReg n _ => if 6 ≤ n then .unassignedRegister else .valueTooWide
  | .readReg _ => .unassignedRegister
  | _ => .outsideWindow

theorem regValue_unassigned {n : Nat} (hn : 6 ≤ n) (s : State) : regValue n s = none := by
  obtain ⟨k, rfl⟩ := Nat.exists_eq_add_of_le' hn
  rfl

/-- The test of the port comes before the test of `BUSY`, so it does not depend on the phase (log entry 11). -/
theorem handle_of_outsidePort {s : State} {e : Event} (h : OutsidePort s.params e) :
    handle e s = .refused (portRefusal e) := by
  cases e with
  | tick => exact h.elim
  | reset => exact h.elim
  | engineFault level => exact h.elim
  | writeReg n v =>
    simp only [OutsidePort] at h
    obtain ⟨hn, hv, -⟩ | ⟨hn, -⟩ | ⟨hn, hn', hv, -⟩ | ⟨-, hr⟩ := hostWriteReg_cases n v s
    · omega
    · omega
    · omega
    · exact hr
  | readReg n => rw [handle, hostReadReg, regValue_unassigned h, portRefusal]
  | writeByte w off v =>
    obtain ⟨hoff, -⟩ | ⟨-, hr⟩ := hostWriteByte_cases w off v s
    · exact absurd h (Nat.not_le.2 hoff)
    · exact hr
  | readByte w off => exact if_pos h

theorem step_of_outsidePort {s : State} {e : Event} {rest : List Event} (h : s.inputs = e :: rest)
    (ho : OutsidePort s.params e) : step s = .refused (portRefusal e) := by
  rw [step_cons h]
  exact handle_of_outsidePort (s := { s with inputs := rest }) ho

/-- Settles O48: `portRefusal` of each form of access is the name that the statement gives it. -/
theorem accessOutsidePortRefused : Obligations.AccessOutsidePortRefused := by
  intro s e rest h ho
  have hr := step_of_outsidePort h ho
  refine ⟨⟨_, hr⟩, ?_, ?_, ?_, ?_⟩
  · rintro n v rfl
    exact hr
  · rintro n rfl
    exact hr
  · rintro w off v rfl
    exact hr
  · rintro w off rfl
    exact hr

/-! ### Writes while a request is in progress -/

theorem isBusy_eq_true {s : State} : isBusy s = true ↔ s.phase ≠ .idle ∧ s.phase ≠ .done := by
  simp [isBusy]

/-- `START` is accepted at rest only and `CLEAR` in `DONE` only, so neither has an effect in between (R127, R137). -/
theorem hostCommand_of_busy {s : State} (hb : isBusy s = true) (v : Byte) : hostCommand v s = .next s := by
  obtain ⟨hidle, hdone⟩ := isBusy_eq_true.1 hb
  obtain ⟨-, hc⟩ | ⟨-, hc⟩ | ⟨-, -, hc⟩ := hostCommand_cases v s
  · rw [hc, execStart, if_neg hidle, if_neg hdone]
  · rw [hc, execClear, if_neg hdone]
  · exact hc

theorem hostWriteReg_of_busy {s : State} {n v : Nat} (hb : isBusy s = true)
    (hin : ¬ OutsidePort s.params (.writeReg n v)) : hostWriteReg n v s = .next s := by
  obtain ⟨-, -, hw⟩ | ⟨-, hw⟩ | ⟨-, -, -, new, hw⟩ | ⟨ho, -⟩ := hostWriteReg_cases n v s
  · rw [hw, hostCommand_of_busy hb]
  · exact hw
  · rw [hw, if_pos hb]
  · exact absurd ho hin

theorem hostWriteByte_of_busy {s : State} {w : Window} {off : Nat} {v : Byte} (hb : isBusy s = true)
    (hoff : off < windowSize w s.params) : hostWriteByte w off v s = .next s := by
  obtain ⟨-, hw⟩ | ⟨ho, -⟩ := hostWriteByte_cases w off v s
  · rw [hw, if_pos hb]
  · exact absurd hoff (Nat.not_lt.2 ho)

/-- Settles O49: in every case of a write inside the port the state is kept, and `step` has taken the access off the queue. -/
theorem busyPortIgnoresWrites : Obligations.BusyPortIgnoresWrites := by
  rintro s e rest hb h hin (⟨n, v, rfl⟩ | ⟨w, off, v, rfl⟩)
  · exact (step_cons h).trans (hostWriteReg_of_busy (s := { s with inputs := rest }) hb hin)
  · exact (step_cons h).trans (hostWriteByte_of_busy (s := { s with inputs := rest }) hb (Nat.not_le.1 hin))

/-! ### The plaintext window -/

theorem ptOpen_eq_true {s : State} {j : Nat} :
    ptOpen s j = true ↔ isDone s = true ∧ s.status = .ok ∧ j < s.ptlen := by
  simp [ptOpen, and_assoc]

/-- Settles O52: a read of `PT` answers `ptByte`, whose gate is `ptOpen`. -/
theorem plaintextWindowIsGated : Obligations.PlaintextWindowIsGated := by
  intro s rest j hj h
  have hstep : step s = .next { s with inputs := rest, readData := some (.byte (ptByte s j)) } := step_readByte h hj
  refine ⟨fun hopen => ?_, fun hclosed => ?_⟩
  · rw [hstep, ptByte, if_pos (ptOpen_eq_true.2 hopen)]
  · rw [hstep, ptByte, if_neg (mt ptOpen_eq_true.1 hclosed)]

/-! ### Inside the port every step completes -/

theorem hostCommand_completes (v : Byte) (s : State) : ∃ t, hostCommand v s = .next t := by
  obtain ⟨-, hc⟩ | ⟨-, hc⟩ | ⟨-, -, hc⟩ := hostCommand_cases v s
  · rw [hc, execStart]
    split_ifs <;> exact ⟨_, rfl⟩
  · rw [hc, execClear]
    split_ifs <;> exact ⟨_, rfl⟩
  · exact ⟨_, hc⟩

theorem hostWriteReg_completes {s : State} {n v : Nat} (hin : ¬ OutsidePort s.params (.writeReg n v)) :
    ∃ t, hostWriteReg n v s = .next t := by
  obtain ⟨-, -, hw⟩ | ⟨-, hw⟩ | ⟨-, -, -, new, hw⟩ | ⟨ho, -⟩ := hostWriteReg_cases n v s
  · rw [hw]
    exact hostCommand_completes _ s
  · exact ⟨_, hw⟩
  · exact ⟨_, hw⟩
  · exact absurd ho hin

/-- The sequencer's turn completes by the invariant, every other agent's action because it lies in the port. -/
theorem Inv.handle_completes {s : State} {e : Event} (h : Inv s) (hin : ¬ OutsidePort s.params e) :
    ∃ t, Machine.handle e s = .next t := by
  cases e with
  | tick =>
    obtain ⟨t, ht⟩ := h.exists_turn
    exact ⟨t, ht.sequencerStep_eq⟩
  | reset => exact ⟨_, rfl⟩
  | engineFault level => exact ⟨_, rfl⟩
  | writeReg n v => exact hostWriteReg_completes hin
  | readReg n =>
    obtain ⟨v, hv⟩ := exists_regValue (Nat.not_le.1 hin) s
    exact ⟨{ s with readData := some (.reg v) }, by rw [Machine.handle, hostReadReg, hv]⟩
  | writeByte w off v =>
    obtain ⟨-, hw⟩ | ⟨ho, -⟩ := hostWriteByte_cases w off v s
    · exact ⟨_, hw⟩
    · exact absurd ho hin
  | readByte w off => exact ⟨_, if_neg hin⟩

/-- Settles O57: with an empty queue the sequencer has a turn under the invariant, and a queued action inside the port
completes. -/
theorem everyStepInsidePortCompletes : Obligations.EveryStepInsidePortCompletes := by
  intro s h hin
  cases hi : s.inputs with
  | nil =>
    obtain ⟨t, ht⟩ := h.exists_turn
    exact ⟨t, step_of_turn hi ht⟩
  | cons e rest =>
    rw [step_cons hi]
    exact (h.withEnvironment s.engineFault rest s.readData).handle_completes (hin e rest hi)

/-! ### Where an operation stops -/

theorem memReadBlock_eq_none {b : Buf} {off : Nat} {s : State} :
    memReadBlock b off s = none ↔ b.size s.params < off + 16 := by
  simp [Option.eq_none_iff_forall_ne_some, memReadBlock_eq_some]

theorem memWrite_eq_none {b : Buf} {off : Nat} {v : List Byte} {s : State} :
    memWrite b off v s = none ↔ b.size s.params < off + v.length := by
  simp [Option.eq_none_iff_forall_ne_some, memWrite_eq_some]

theorem lastByte_of_outside {s : State} (h : s.ctlen = 0 ∨ s.params.ctMax < s.ctlen) : lastByte s = none := by
  refine Option.eq_none_iff_forall_ne_some.2 fun b hb => ?_
  obtain ⟨hpos, hfit, -⟩ := lastByte_eq_some.1 hb
  omega

theorem lastBlock_of_outside {s : State} (h : s.ctlen < 16 ∨ s.params.ctMax < s.ctlen) : lastBlock s = none := by
  refine Option.eq_none_iff_forall_ne_some.2 fun b hb => ?_
  obtain ⟨hblock, hfit, -⟩ := lastBlock_eq_some.1 hb
  omega

/-- `KI` in 1 to 7, or 60 and above, is no word that `KEXP` computes (R90, U11). -/
theorem execKexp_unreachable {s : State} (hf : s.engineFault = false)
    (hk : 1 ≤ s.ki.toNat ∧ s.ki.toNat ≤ 7 ∨ 60 ≤ s.ki.toNat) : execKexp s = .refused .unreachableState := by
  have hcopy : s.ki ≠ 0#6 := fun h => by simp [h] at hk
  have hword : ¬ (8 ≤ s.ki.toNat ∧ s.ki.toNat < 60) := by omega
  rw [execKexp, sampled_of_low hf, if_neg hcopy, if_neg hword]

/-- `RND = 15` is no round (R100, U11). -/
theorem execInvcipher_unreachable {s : State} (hf : s.engineFault = false) (hr : s.rnd = 15#4) :
    execInvcipher s = .refused .unreachableState := by
  have hfirst : s.rnd ≠ 14#4 := by simp [hr]
  rw [execInvcipher, sampled_of_low hf, if_neg hfirst, if_pos hr]

theorem execLoadblk_outside {s : State} (hf : s.engineFault = false) (hb : s.params.ctMax < blockOffset s + 16) :
    execLoadblk s = .fault .bufferBound := by
  have hread : memReadBlock .ctbuf (blockOffset s) s = none := memReadBlock_eq_none.2 hb
  rw [execLoadblk, sampled_of_low hf, hread]

theorem execCbcxor_outside {s : State} (hf : s.engineFault = false) (hb : s.params.ctMax < blockOffset s + 16) :
    execCbcxor s = .fault .bufferBound := by
  have hwrite : memWrite .dec (blockOffset s) (xorBlock s.sreg s.prev).toList s = none :=
    memWrite_eq_none.2 (by simpa [Buf.size] using hb)
  rw [execCbcxor, sampled_of_low hf, hwrite]

/-- `CbcDecrypt` on less than a block or on a partial block (R105). -/
theorem execCbcDecryptFn_outside {ct : List Byte} (hct : ct.length < 16 ∨ ct.length % 16 ≠ 0) (w : Schedule) (iv : Block)
    (s : State) : execCbcDecryptFn w iv ct s = .refused .outsideDomain := by
  have hdomain : (wholeBlocks ct && atLeastOneBlock ct) = false := by
    simp only [wholeBlocks, atLeastOneBlock, Bool.and_eq_false_iff, beq_eq_false_iff_ne, decide_eq_false_iff_not]
    omega
  simp [execCbcDecryptFn, hdomain]

/-- `Unpad` on less than a block (R120). -/
theorem execUnpadFn_outside {dec : List Byte} (hd : dec.length < 16) (s : State) :
    execUnpadFn dec s = .refused .outsideDomain := by
  have hdomain : atLeastOneBlock dec = false := by simpa [atLeastOneBlock] using hd
  simp [execUnpadFn, hdomain]

/-- Settles O39: each operation's guard fails, or the access it makes finds nothing. -/
theorem outOfReachValuesStop : Obligations.OutOfReachValuesStop := by
  intro s
  refine ⟨execKexp_unreachable, execInvcipher_unreachable, fun hp => if_pos hp, fun hf hb => ?_, fun hc => ?_, fun hc => ?_,
    fun w iv ct hct => execCbcDecryptFn_outside hct w iv s, fun dec hd => execUnpadFn_outside hd s⟩
  · have hout : s.params.ctMax < blockOffset s + 16 := by rwa [blockOffset]
    rw [exec, exec]
    exact ⟨execLoadblk_outside hf hout, execCbcxor_outside hf hout⟩
  · rw [exec, execPadread, lastByte_of_outside hc]
  · rw [exec, execPadfull, lastBlock_of_outside hc]

end Sys2Proof.Machine

/-! PROOFS. The encoding of the operations, and what a selector makes the machine do (spec/30_encoding.md R61 to R64, R67, R68,
R72; spec/10_state.md R23).

`decode_eq_ok` lists the sixteen selectors that select an operation: two bytes of `CTRL` and one code for each phase. Every
other selector is rejected, and as a byte of `CTRL` it is ignored. -/

namespace Sys2Proof

/-! ### The phase codes -/

theorem Phase.ofCode_code (p : Phase) : Phase.ofCode p.code = some p := by
  cases p <;> rfl

/-- The codes of R64 are the only codes that name a phase. -/
theorem Phase.ofCode_eq_some {c : BitVec 4} {p : Phase} : Phase.ofCode c = some p ↔ c = p.code := by
  refine ⟨fun h => ?_, fun h => h ▸ p.ofCode_code⟩
  unfold Phase.ofCode at h
  split at h
  case h_15 => cases h
  all_goals
    rename_i hc
    cases h
    exact BitVec.eq_of_toNat_eq hc

theorem Phase.code_lt (p : Phase) : p.code.toNat < 14 := by
  cases p <;> decide

/-- Codes 14 and 15 name no phase (R68). -/
theorem Phase.ofCode_of_reserved {c : BitVec 4} (h : 14 ≤ c.toNat) : Phase.ofCode c = none := by
  refine Option.eq_none_iff_forall_ne_some.2 fun p hp => ?_
  have hlt := p.code_lt
  rw [← Phase.ofCode_eq_some.1 hp] at hlt
  omega

/-! ### The decoder -/

theorem decodeCtrl_eq_ok {v : BitVec 8} {i : Instr} :
    decodeCtrl v = .ok i ↔ (v = 0x01#8 ∧ i = .start) ∨ (v = 0x02#8 ∧ i = .clear) := by
  unfold decodeCtrl
  split_ifs with hstart hclear hnone
  · simp [hstart, eq_comm]
  · simp [hclear, eq_comm]
  · simp [hstart, hclear]
  · simp [hstart, hclear]

/-- The bytes 0x03 to 0xFF are reserved (R67). -/
theorem decodeCtrl_of_reserved {v : BitVec 8} (h : 3 ≤ v.toNat) : decodeCtrl v = .error .reservedCtrl := by
  have hne {k : BitVec 8} (hk : k.toNat < 3) : v ≠ k := by
    rintro rfl
    omega
  rw [decodeCtrl, if_neg (hne (by decide)), if_neg (hne (by decide)), if_neg (hne (by decide))]

theorem decodePhase_eq_ok {c : BitVec 4} {i : Instr} :
    decodePhase c = .ok i ↔ ∃ p : Phase, c = p.code ∧ i = p.instr := by
  simp only [← Phase.ofCode_eq_some]
  unfold decodePhase
  cases Phase.ofCode c <;> simp [eq_comm]

/-- The selectors that select an operation, each with its operation (R61, R64). -/
theorem decode_eq_ok {e : Selector} {i : Instr} :
    decode e = .ok i ↔ (e = .ctrl 0x01#8 ∧ i = .start) ∨ (e = .ctrl 0x02#8 ∧ i = .clear) ∨
      ∃ p : Phase, e = .phase p.code ∧ i = p.instr := by
  cases e with
  | ctrl v => simp [decode, decodeCtrl_eq_ok]
  | phase c => simp [decode, decodePhase_eq_ok]

/-! ### The encoder -/

theorem encode_instr (p : Phase) : encode p.instr = some (.phase p.code) := by
  cases p <;> rfl

theorem encode_of_decode {e : Selector} {i : Instr} (h : decode e = .ok i) : encode i = some e := by
  obtain ⟨rfl, rfl⟩ | ⟨rfl, rfl⟩ | ⟨p, rfl, rfl⟩ := decode_eq_ok.1 h
  · rfl
  · rfl
  · exact encode_instr p

/-- The round trip of every operation, each by its own law; the last nine have no selector (R72). -/
theorem decode_of_encode : ∀ i : Instr, Laws.EncodingRoundTrip.Statement i
  | .start => Laws.EncodingRoundTrip.start
  | .clear => Laws.EncodingRoundTrip.clear
  | .idle => Laws.EncodingRoundTrip.idle
  | .validate => Laws.EncodingRoundTrip.validate
  | .kexp => Laws.EncodingRoundTrip.kexp
  | .loadblk => Laws.EncodingRoundTrip.loadblk
  | .invcipher => Laws.EncodingRoundTrip.invcipher
  | .cbcxor => Laws.EncodingRoundTrip.cbcxor
  | .padread => Laws.EncodingRoundTrip.padread
  | .padrange => Laws.EncodingRoundTrip.padrange
  | .padlen => Laws.EncodingRoundTrip.padlen
  | .padfull => Laws.EncodingRoundTrip.padfull
  | .trunc => Laws.EncodingRoundTrip.trunc
  | .fail => Laws.EncodingRoundTrip.fail
  | .wipe => Laws.EncodingRoundTrip.wipe
  | .done => Laws.EncodingRoundTrip.done
  | .addrk s k => Laws.EncodingRoundTrip.addrk s k
  | .invshiftrows s => Laws.EncodingRoundTrip.invshiftrows s
  | .invsubbytes s => Laws.EncodingRoundTrip.invsubbytes s
  | .invmixcols s => Laws.EncodingRoundTrip.invmixcols s
  | .keyExpansionFn key => Laws.EncodingRoundTrip.keyExpansionFn key
  | .invCipherFn c w => Laws.EncodingRoundTrip.invCipherFn c w
  | .cbcDecryptFn w iv ct => Laws.EncodingRoundTrip.cbcDecryptFn w iv ct
  | .unpadFn dec => Laws.EncodingRoundTrip.unpadFn dec
  | .decryptFn key iv ct fault => Laws.EncodingRoundTrip.decryptFn key iv ct fault

/-- Settles O1: the round trip does not depend on the operands, so well-formedness is not needed. -/
theorem decodeEncodeAgree : Obligations.DecodeEncodeAgree :=
  fun i e _ he => decode_of_encode i e he

/-- Settles O2: `decode_eq_ok` leaves each operation one selector, and what it leaves out is rejected. -/
theorem eachSelectorHasOneMeaning : Obligations.EachSelectorHasOneMeaning := by
  refine ⟨fun e i h => encode_of_decode h, rfl, fun v h => decodeCtrl_of_reserved h, fun c h => ?_⟩
  rw [decode, decodePhase, Phase.ofCode_of_reserved h]

/-! ### Rows of the operation table -/

/-- A row that denotes an operation's selector decodes to that operation. -/
theorem decodeTableWord_of_encode {nbits w : Nat} {e : Selector} {i : Instr} (hw : tableSelector nbits w = some e)
    (he : encode i = some e) : decodeTableWord nbits w = some i := by
  rw [decodeTableWord, hw]
  simp only [decode_of_encode i e he]

/-- Settles O3: each row denotes the selector that the encoder gives its operation. -/
theorem writtenWordsDecode : Obligations.WrittenWordsDecode :=
  ⟨decodeTableWord_of_encode rfl rfl, decodeTableWord_of_encode rfl rfl, decodeTableWord_of_encode rfl rfl,
    decodeTableWord_of_encode rfl rfl, decodeTableWord_of_encode rfl rfl, decodeTableWord_of_encode rfl rfl,
    decodeTableWord_of_encode rfl rfl⟩

end Sys2Proof

namespace Sys2Proof.Machine

/-! ### What a selector makes a step do -/

theorem step_writeCtrl {s : State} {rest : List Event} {v : Nat} (h : s.inputs = .writeReg 0 v :: rest) (hv : v < 256) :
    step s = hostCommand (BitVec.ofNat 8 v) { s with inputs := rest } :=
  (step_cons h).trans (if_pos hv)

theorem hostCommand_of_decode {v : Byte} {i : Instr} (h : decode (.ctrl v) = .ok i) (s : State) :
    hostCommand v s = exec i s := by
  rw [hostCommand, h]

theorem sequencerStep_of_decode {s : State} {i : Instr} (h : decode (.phase s.phase.code) = .ok i) :
    sequencerStep s = exec i s := by
  rw [sequencerStep, h]

/-- Settles O4: the host's command and the sequencer's turn each perform what their selector decodes to. -/
theorem stepRunsDecodedOperation : Obligations.StepRunsDecodedOperation := by
  refine ⟨fun s rest v i h hv hd => ?_, fun s i h hd => ?_, fun s rest i h hd => ?_⟩
  · rw [step_writeCtrl h hv, hostCommand_of_decode hd]
  · rw [step_nil h, sequencerStep_of_decode hd]
  · rw [step_cons h, handle, sequencerStep_of_decode (s := { s with inputs := rest }) hd]

/-- Settles O5: of the three cases of a `CTRL` write, a byte other than 0x01 and 0x02 leaves the last. -/
theorem unusedCtrlValuesIgnored : Obligations.UnusedCtrlValuesIgnored := by
  intro s rest v h hv hstart hclear
  rw [step_writeCtrl h hv]
  obtain ⟨hb, -⟩ | ⟨hb, -⟩ | ⟨-, -, hc⟩ := hostCommand_cases (BitVec.ofNat 8 v) { s with inputs := rest }
  · exact absurd hb (by bv_omega)
  · exact absurd hb (by bv_omega)
  · exact hc

/-! ### The byte `STAT` reads as -/

theorem statByte_of_busy {s : State} (h : isBusy s = true) : statByte s = 0x01#8 := by
  have hd : isDone s = false := by simp [isDone, (isBusy_eq_true.1 h).2]
  simp [statByte, statusField, hd, h]

theorem statByte_of_done {s : State} (h : s.phase = .done) :
    statByte s = 0#3 ++ s.status.bits ++ 1#1 ++ 0#1 := by
  have hd : isDone s = true := by simp [isDone, h]
  have hb : isBusy s = false := isBusy_eq_false.2 (.inr h)
  simp [statByte, statusField, hd, hb]

/-- The six result codes of R63. -/
theorem Code.bits_le (c : Code) : c.bits.toNat ≤ 5 := by
  rcases c with _ | k
  · decide
  · cases k <;> decide

/-- `STATUS` stands in bits 4:2 and `DONE` in bit 1 (R62). -/
theorem statByte_toNat_of_done {s : State} (h : s.phase = .done) :
    (statByte s).toNat = 0x02 + 4 * s.status.bits.toNat := by
  have hplace : ∀ b : BitVec 3, (0#3 ++ b ++ 1#1 ++ 0#1).toNat = 0x02 + 4 * b.toNat := by decide
  rw [statByte_of_done h, hplace]

/-- Settles O53: the three readings of `STAT`, of which the one in `DONE` takes a value for each of the six result codes. -/
theorem statReadsLegalValue : Obligations.StatReadsLegalValue := by
  intro s rest h
  have hidle (hp : s.phase = .idle) : (statByte s).toNat = 0x00 := by rw [statByte_of_idle hp]; rfl
  have hbusy (hb : isBusy s = true) : (statByte s).toNat = 0x01 := by rw [statByte_of_busy hb]; rfl
  refine ⟨(statByte s).toNat, step_readReg h rfl, hidle, hbusy,
    fun hp => ⟨statByte_toNat_of_done hp, s.status.bits_le⟩, ?_⟩
  cases hb : isBusy s with
  | true => exact .inr (.inl (hbusy hb))
  | false =>
    obtain hp | hp := isBusy_eq_false.1 hb
    · exact .inl (hidle hp)
    · have hle := s.status.bits_le
      rw [statByte_toNat_of_done hp]
      omega

end Sys2Proof.Machine

/-! PROOFS. The key expansion, as a function and as the phase `KEXP` (spec/41_key_expansion.md R86 to R90, R93).

`Expands` says of a schedule that it holds the key words and meets the recurrence of R87. It determines the schedule, so
whatever `W` holds before `KEXP`, the phase leaves what `KeyExpansion` returns. -/

namespace Sys2Proof.Machine

/-! ### Entries of a vector by number -/

theorem getElem!_ofFn {α : Type} [Inhabited α] {n i : Nat} (f : Fin n → α) (hi : i < n) :
    (Vector.ofFn f)[i]! = f ⟨i, hi⟩ := by
  rw [getElem!_pos (Vector.ofFn f) i hi, Vector.getElem_ofFn]

theorem getElem!_set!_self (w : Schedule) {k : Nat} (hk : k < 60) (x : Word) : (w.set! k x)[k]! = x := by
  rw [getElem!_pos (w.set! k x) k hk, Vector.getElem_set!_self]

theorem getElem!_set!_of_ne (w : Schedule) {k i : Nat} (hi : i < 60) (h : i ≠ k) (x : Word) :
    (w.set! k x)[i]! = w[i]! := by
  rw [getElem!_pos (w.set! k x) i hi, Vector.getElem_set!_ne hi h.symm, getElem!_pos w i hi]

theorem schedule_ext {w v : Schedule} (h : ∀ i, i < 60 → w[i]! = v[i]!) : w = v := by
  refine Vector.ext fun i hi => ?_
  rw [← getElem!_pos w i hi, ← getElem!_pos v i hi, h i hi]

/-! ### The key words -/

theorem copyKey_getElem!_of_lt (key : Key) (w : Schedule) {i : Nat} (hi : i < 8) : (copyKey key w)[i]! = keyWord key i := by
  rw [copyKey, getElem!_ofFn _ (by omega), if_pos hi]

theorem copyKey_getElem!_of_ge (key : Key) (w : Schedule) {i : Nat} (hi : 8 ≤ i) (hi' : i < 60) :
    (copyKey key w)[i]! = w[i]! := by
  rw [copyKey, getElem!_ofFn _ hi', if_neg (Nat.not_lt.2 hi), getElem!_pos w i hi']
  rfl

theorem keyOperand_getElem! (s : State) {j : Nat} (hj : j < 32) : (keyOperand s)[j]! = s.byteAt .keybuf j :=
  getElem!_ofFn _ hj

theorem keyWord_keyOperand (s : State) {i : Nat} (hi : i < 8) : keyWord (keyOperand s) i =
    wordOf (s.byteAt .keybuf (4 * i)) (s.byteAt .keybuf (4 * i + 1)) (s.byteAt .keybuf (4 * i + 2))
      (s.byteAt .keybuf (4 * i + 3)) := by
  rw [keyWord, keyOperand_getElem! s (by omega), keyOperand_getElem! s (by omega), keyOperand_getElem! s (by omega),
    keyOperand_getElem! s (by omega)]

/-- The bytes of a word, most significant first (R46). -/
theorem wordByte_wordOf (b0 b1 b2 b3 : Byte) : wordByte (wordOf b0 b1 b2 b3) 0 = b0 ∧
    wordByte (wordOf b0 b1 b2 b3) 1 = b1 ∧ wordByte (wordOf b0 b1 b2 b3) 2 = b2 ∧
    wordByte (wordOf b0 b1 b2 b3) 3 = b3 := by
  have hskip {n off : Nat} (hi : BitVec n) (lo : Byte) :
      (hi ++ lo).extractLsb' (off + 8) 8 = hi.extractLsb' off 8 := by
    rw [BitVec.extractLsb'_append_eq_of_le (Nat.le_add_left 8 off), Nat.add_sub_cancel]
  refine ⟨?_, ?_, ?_, BitVec.extractLsb'_append_eq_right⟩
  · exact (hskip (b0 ++ b1 ++ b2) b3).trans <| (hskip (b0 ++ b1) b2).trans BitVec.extractLsb'_append_eq_left
  · exact (hskip (b0 ++ b1 ++ b2) b3).trans <| (hskip (b0 ++ b1) b2).trans BitVec.extractLsb'_append_eq_right
  · exact (hskip (b0 ++ b1 ++ b2) b3).trans BitVec.extractLsb'_append_eq_right

theorem wordByte_keyWord (key : Key) (i : Nat) {k : Nat} (hk : k < 4) : wordByte (keyWord key i) k = key[4 * i + k]! := by
  obtain ⟨h0, h1, h2, h3⟩ := wordByte_wordOf key[4 * i]! key[4 * i + 1]! key[4 * i + 2]! key[4 * i + 3]!
  obtain rfl | rfl | rfl | rfl : k = 0 ∨ k = 1 ∨ k = 2 ∨ k = 3 := by omega
  · exact h0
  · exact h1
  · exact h2
  · exact h3

/-! ### The recurrence -/

theorem expandWord_of_rotated (w : Schedule) {i : Nat} (h : i % 8 = 0) :
    expandWord w i = w[i - 8]! ^^^ (subWord (rotWord w[i - 1]!) ^^^ rconWord (i / 8)) := by
  rw [expandWord, expandTemp, if_pos h]

theorem expandWord_of_substituted (w : Schedule) {i : Nat} (h : i % 8 = 4) :
    expandWord w i = w[i - 8]! ^^^ subWord w[i - 1]! := by
  rw [expandWord, expandTemp, if_neg (by omega), if_pos h]

theorem expandWord_of_plain (w : Schedule) {i : Nat} (h : i % 8 ≠ 0) (h' : i % 8 ≠ 4) :
    expandWord w i = w[i - 8]! ^^^ w[i - 1]! := by
  rw [expandWord, expandTemp, if_neg h, if_neg h']

/-- A word depends on the words before it only. -/
theorem expandWord_congr {w v : Schedule} {i : Nat} (hi : 8 ≤ i) (h : ∀ j, j < i → w[j]! = v[j]!) :
    expandWord w i = expandWord v i := by
  rw [expandWord, expandWord, h (i - 8) (by omega), h (i - 1) (by omega)]

/-- The words before the first computed one stay. -/
theorem expandFrom_getElem!_of_lt (n : Nat) {k i : Nat} (w : Schedule) (hi : i < 60) (h : i < k) :
    (expandFrom n k w)[i]! = w[i]! := by
  induction n generalizing k w with
  | zero => rfl
  | succ n ih => rw [expandFrom, ih _ (by omega), getElem!_set!_of_ne w hi (by omega)]

/-- The recurrence holds of the result: a word is computed after the words it depends on, and is not written again. -/
theorem expandFrom_getElem!_of_ge {n k i : Nat} (w : Schedule) (hk : 8 ≤ k) (h : k ≤ i) (h' : i < k + n) (hi : i < 60) :
    (expandFrom n k w)[i]! = expandWord (expandFrom n k w) i := by
  induction n generalizing k w with
  | zero => omega
  | succ n ih =>
    obtain rfl | hlt := Nat.eq_or_lt_of_le h
    · calc (expandFrom (n + 1) k w)[k]!
          = (w.set! k (expandWord w k))[k]! := expandFrom_getElem!_of_lt n _ hi (Nat.lt_succ_self k)
        _ = expandWord w k := getElem!_set!_self w hi _
        _ = expandWord (expandFrom (n + 1) k w) k :=
          expandWord_congr hk fun j hj => (expandFrom_getElem!_of_lt (n + 1) w (by omega) hj).symm
    · exact ih _ (by omega) hlt (by omega)

/-- The schedule holds the key words, and every later word is that of the recurrence (R87). -/
structure Expands (key : Key) (w : Schedule) : Prop where
  key_word : ∀ i, i < 8 → w[i]! = keyWord key i
  expanded : ∀ i, 8 ≤ i → i < 60 → w[i]! = expandWord w i

theorem expands_expandFrom (key : Key) (w : Schedule) : Expands key (expandFrom 52 8 (copyKey key w)) where
  key_word i hi := by rw [expandFrom_getElem!_of_lt 52 _ (by omega) hi, copyKey_getElem!_of_lt key w hi]
  expanded i hi hi' := expandFrom_getElem!_of_ge _ (Nat.le_refl 8) hi hi' hi'

theorem expands_keyExpansion (key : Key) : Expands key (keyExpansion key) := expands_expandFrom key zeroSchedule

/-- The recurrence determines the schedule. -/
theorem Expands.unique {key : Key} {w v : Schedule} (hw : Expands key w) (hv : Expands key v) : w = v := by
  refine schedule_ext fun i => ?_
  induction i using Nat.strongRecOn with
  | ind i ih =>
    intro hi
    obtain hkey | hlater := Nat.lt_or_ge i 8
    · rw [hw.key_word i hkey, hv.key_word i hkey]
    · rw [hw.expanded i hlater hi, hv.expanded i hlater hi]
      exact expandWord_congr hlater fun j hj => ih j hj (by omega)

/-- Settles O12: `Expands`, with the recurrence taken apart by `i mod 8`. -/
theorem keyExpansionSatisfiesRecurrence : Obligations.KeyExpansionSatisfiesRecurrence := by
  intro key s
  have h := expands_keyExpansion key
  refine ⟨keyExpansion key, rfl, h.key_word, fun i hi hi' hm => ?_, fun i hi hi' hm => ?_, fun i hi hi' hm hm' => ?_⟩
  · rw [h.expanded i hi hi', expandWord_of_rotated _ hm]
  · rw [h.expanded i hi hi', expandWord_of_substituted _ hm]
  · rw [h.expanded i hi hi', expandWord_of_plain _ hm hm']

/-! ### The round keys -/

theorem roundKey_getElem! (w : Schedule) (r : Nat) {j : Nat} (hj : j < 16) :
    (roundKey w r)[j]! = wordByte w[4 * r + j / 4]! (j % 4) :=
  getElem!_ofFn _ hj

/-- A round key taken from the first eight words consists of key bytes (R93 (b)). -/
theorem Expands.roundKey_getElem! {key : Key} {w : Schedule} (h : Expands key w) {r j : Nat} (hr : r < 2) (hj : j < 16) :
    (roundKey w r)[j]! = key[16 * r + j]! := by
  have hbyte : 4 * (4 * r + j / 4) + j % 4 = 16 * r + j := by omega
  rw [Machine.roundKey_getElem! w r hj, h.key_word _ (by omega), wordByte_keyWord key _ (Nat.mod_lt j (by decide)), hbyte]

/-- Settles O13: round keys 0 and 1 are taken from the first eight words. -/
theorem firstTwoRoundKeysAreTheKey : Obligations.FirstTwoRoundKeysAreTheKey := by
  intro key j hj
  have h := expands_keyExpansion key
  refine ⟨?_, h.roundKey_getElem! (by decide) hj⟩
  rw [h.roundKey_getElem! (by decide) hj, Nat.mul_zero, Nat.zero_add]

/-! ### One step of the phase -/

theorem execKexp_copy {s : State} (hf : s.engineFault = false) (hk : s.ki = 0#6) : execKexp s = .next (kexpCopy s) := by
  rw [execKexp, sampled_of_low hf, if_pos hk]

/-- What a step after the first leaves: the phase ends with word 59 (R90). -/
theorem kexpEnd_kexpWord {s : State} {k : Nat} (hs : s.ki.toNat = k) : kexpEnd (kexpWord s) =
    { s with
      w := s.w.set! k (expandWord s.w k)
      ki := BitVec.ofNat 6 (k + 1)
      phase := if k = 59 then .loadblk else s.phase
      blk := if k = 59 then 0 else s.blk } := by
  have hnext : s.ki + 1#6 = BitVec.ofNat 6 (k + 1) := by bv_omega
  subst hs
  by_cases hlast : s.ki.toNat = 59
  · have hend : (kexpWord s).ki = 60#6 := by rw [kexpWord_ki]; bv_omega
    rw [kexpEnd, if_pos hend, if_pos hlast, if_pos hlast, ← hnext, kexpWord]
  · have hend : (kexpWord s).ki ≠ 60#6 := by rw [kexpWord_ki]; bv_omega
    rw [kexpEnd, if_neg hend, if_neg hlast, if_neg hlast, ← hnext, kexpWord]

/-- Settles O10: the first step is `kexpCopy`; a later one stores `expandWord` at `KI` and no other word. -/
theorem kexpStepComputesOneWord : Obligations.KexpStepComputesOneWord := by
  intro s hf
  refine ⟨fun hki => ⟨kexpCopy s, execKexp_copy hf hki, rfl, fun i hi => ?_, fun i hi hi' => ?_⟩, fun k hs hk hk' => ?_⟩
  · rw [kexpCopy_w, copyKey_getElem!_of_lt _ _ hi, keyWord_keyOperand s hi]
  · rw [kexpCopy_w, copyKey_getElem!_of_ge _ _ hi hi']
  · have hword : (s.w.set! k (expandWord s.w k))[k]! = expandWord s.w k := getElem!_set!_self s.w hk' _
    refine ⟨_, (execKexp_word hf (hs ▸ hk) (hs ▸ hk')).trans (congrArg _ (kexpEnd_kexpWord hs)), rfl,
      fun i hi hne => getElem!_set!_of_ne s.w hi hne _, fun hm => ?_, fun hm => ?_, fun hm hm' => ?_⟩
    · exact hword.trans (expandWord_of_rotated s.w hm)
    · exact hword.trans (expandWord_of_substituted s.w hm)
    · exact hword.trans (expandWord_of_plain s.w hm hm')

/-! ### The whole phase -/

/-- The steps from word `KI` to the last compute the words in turn (R90). -/
theorem runSteps_kexpWords {n k : Nat} {s : State} (hp : s.phase = .kexp) (hs : s.ki.toNat = k) (hk : 8 ≤ k)
    (hn : k + (n + 1) = 60) (hi : s.inputs = []) (hf : s.engineFault = false) :
    runSteps (n + 1) s = some { s with w := expandFrom (n + 1) k s.w, ki := 60#6, phase := .loadblk, blk := 0 } := by
  subst hs
  induction n generalizing s with
  | zero =>
    have hlast : s.ki = 59#6 := by bv_omega
    rw [runSteps_next (step_of_turn hi (.kexpLast hp hf hlast)), runSteps, kexpWord, hlast]
    rfl
  | succ n ih =>
    have hnext : (kexpWord s).ki.toNat = s.ki.toNat + 1 := by rw [kexpWord_ki]; bv_omega
    rw [runSteps_next (step_of_turn hi (.kexpWord hp hf hk (by omega))),
      ih ((kexpWord_phase s).trans hp) ((kexpWord_inputs s).trans hi) ((kexpWord_engineFault s).trans hf) (by omega)
        (by omega), hnext]
    rfl

/-- Settles O11: the copy and the 52 words expand the key, and the recurrence has one solution. -/
theorem kexpPhaseComputesKeyExpansion : Obligations.KexpPhaseComputesKeyExpansion := by
  intro s hp hki hi hf
  have hexp : expandFrom 52 8 (kexpCopy s).w = keyExpansion (keyOperand s) :=
    (expands_expandFrom (keyOperand s) s.w).unique (expands_keyExpansion (keyOperand s))
  have hstart : (kexpCopy s).ki.toNat = 8 := congrArg BitVec.toNat (kexpCopy_ki s)
  refine ⟨_, ?_, rfl⟩
  rw [runSteps_next (step_of_turn hi (.kexpCopy hp hf hki)),
    runSteps_kexpWords ((kexpCopy_phase s).trans hp) hstart (Nat.le_refl 8) rfl ((kexpCopy_inputs s).trans hi)
      ((kexpCopy_engineFault s).trans hf), hexp, kexpCopy]
  rfl

end Sys2Proof.Machine

/-! PROOFS. The round primitives and the inverse cipher as functions, and that the fixture's forward cipher is undone
(spec/42_block_decrypt.md R95 to R99, R102).

Each inverse primitive is given byte by byte and then shown to be undone by its forward counterpart. The rounds follow: the
forward round with round key `r` undoes the inverse round with round key `r`, up to the substitution and the row shift that
the two ciphers apply on either side of the round key. This gives one half of R102; the other half follows because a block
has finitely many values. -/

namespace Sys2Proof.Machine

/-! ### Bytes of a block -/

theorem block_ext {a b : Block} (h : ∀ j, j < 16 → a[j]! = b[j]!) : a = b := by
  refine Vector.ext fun j hj => ?_
  rw [← getElem!_pos a j hj, ← getElem!_pos b j hj, h j hj]

theorem xor_left_comm (x y z : Byte) : x ^^^ (y ^^^ z) = y ^^^ (x ^^^ z) := by
  rw [← BitVec.xor_assoc, BitVec.xor_comm x y, BitVec.xor_assoc]

theorem xor_xor_cancel_left (x y : Byte) : x ^^^ (x ^^^ y) = y := by
  rw [← BitVec.xor_assoc, BitVec.xor_self, BitVec.zero_xor]

theorem xor_xor_cancel_right (x y : Byte) : x ^^^ y ^^^ y = x := by
  rw [BitVec.xor_assoc, BitVec.xor_self, BitVec.xor_zero]

/-! ### `ADDRK` -/

theorem xorBlock_getElem! (a b : Block) {j : Nat} (hj : j < 16) : (xorBlock a b)[j]! = a[j]! ^^^ b[j]! := by
  rw [xorBlock, getElem!_ofFn _ hj, getElem!_pos a j hj, getElem!_pos b j hj]
  rfl

@[simp] theorem xorBlock_xorBlock_cancel (a b : Block) : xorBlock (xorBlock a b) b = a :=
  block_ext fun j hj => by rw [xorBlock_getElem! _ _ hj, xorBlock_getElem! _ _ hj, xor_xor_cancel_right]

@[simp] theorem addRoundKey_addRoundKey (s k : Block) : addRoundKey (addRoundKey s k) k = s := xorBlock_xorBlock_cancel s k

/-- Settles O31: `ADDRK` is the XOR of blocks, and a second XOR with the same key cancels the first. -/
theorem addrkXorsRoundKey : Obligations.AddrkXorsRoundKey :=
  fun b k _ => ⟨addRoundKey b k, rfl, fun _ hj => xorBlock_getElem! b k hj, addRoundKey_addRoundKey b k⟩

/-! ### `INVSHIFTROWS` -/

theorem invShiftRows_getElem! (b : Block) {j : Nat} (hj : j < 16) : (invShiftRows b)[j]! = b[invShiftSource j]! :=
  getElem!_ofFn _ hj

theorem shiftRows_getElem! (b : Block) {j : Nat} (hj : j < 16) : (shiftRows b)[j]! = b[shiftSource j]! :=
  getElem!_ofFn _ hj

theorem invShiftSource_lt (j : Nat) : invShiftSource j < 16 := by
  unfold invShiftSource
  omega

theorem shiftSource_lt (j : Nat) : shiftSource j < 16 := by
  unfold shiftSource
  omega

theorem invShiftSource_shiftSource : ∀ j, j < 16 → invShiftSource (shiftSource j) = j := by decide

/-- Row `r` of column `c` moves to column `c + r` (R96). -/
theorem invShiftSource_rotated : ∀ r, r < 4 → ∀ c, c < 4 → invShiftSource (r + 4 * ((c + r) % 4)) = r + 4 * c := by decide

@[simp] theorem shiftRows_invShiftRows (b : Block) : shiftRows (invShiftRows b) = b :=
  block_ext fun j hj => by
    rw [shiftRows_getElem! _ hj, invShiftRows_getElem! _ (shiftSource_lt j), invShiftSource_shiftSource j hj]

/-- Settles O32: `INVSHIFTROWS` takes byte `r + 4c` to its rotated place, and `SHIFTROWS` takes it back. -/
theorem invshiftrowsRotatesRowsRight : Obligations.InvshiftrowsRotatesRowsRight := by
  refine fun b s => ⟨invShiftRows b, rfl, fun r c hr hc => ?_, shiftRows_invShiftRows b⟩
  rw [invShiftRows_getElem! b (by omega), invShiftSource_rotated r hr c hc]

/-! ### `INVSUBBYTES` -/

theorem invSubBytes_getElem! (b : Block) {j : Nat} (hj : j < 16) : (invSubBytes b)[j]! = invSbox b[j]! := by
  rw [invSubBytes, getElem!_ofFn _ hj, getElem!_pos b j hj]
  rfl

theorem subBytes_getElem! (b : Block) {j : Nat} (hj : j < 16) : (subBytes b)[j]! = sbox b[j]! := by
  rw [subBytes, getElem!_ofFn _ hj, getElem!_pos b j hj]
  rfl

@[simp] theorem subBytes_invSubBytes (b : Block) : subBytes (invSubBytes b) = b :=
  block_ext fun j hj => by rw [subBytes_getElem! _ hj, invSubBytes_getElem! _ hj, sbox_invSbox]

theorem invSubBytes_invShiftRows (b : Block) : invSubBytes (invShiftRows b) = invShiftRows (invSubBytes b) :=
  block_ext fun j hj => by
    rw [invSubBytes_getElem! _ hj, invShiftRows_getElem! _ hj, invShiftRows_getElem! _ hj,
      invSubBytes_getElem! _ (invShiftSource_lt j)]

/-- Settles O33: `SBOX` and `INVSBOX` are inverse to each other, so the byte that `SBOX` maps to `b[j]` is `INVSBOX(b[j])`. -/
theorem invsubbytesInvertsSbox : Obligations.InvsubbytesInvertsSbox := by
  refine fun b s => ⟨invSubBytes b, rfl, fun j hj => ?_, invSubBytes_invShiftRows b⟩
  rw [invSubBytes_getElem! b hj]
  exact ⟨rfl, sbox_invSbox _, fun y hy => by rw [← hy, invSbox_sbox]⟩

/-! ### The matrices on one column -/

/-- A column under the matrix of `INVMIXCOLS` (R98). -/
def invMixColumn (a : Nat → Byte) (r : Nat) : Byte := invMixRow (a 0) (a 1) (a 2) (a 3) r

/-- A column under the matrix of the fixture's `MIXCOLS`. -/
def mixColumn (a : Nat → Byte) (r : Nat) : Byte := mixRow (a 0) (a 1) (a 2) (a 3) r

theorem gfMul_02 (a : Byte) : gfMul 0x02#8 a = xtime a :=
  additive_ext (gfMul_xor_right _) xtime_xor (by decide +kernel) a

theorem gfMul_03 (a : Byte) : gfMul 0x03#8 a = xtime a ^^^ a :=
  additive_ext (g := fun x => xtime x ^^^ x) (gfMul_xor_right _) (fun x y => by simp only [xtime_xor]; ac_rfl)
    (by decide +kernel) a

theorem invMixColumn_xor (a b : Nat → Byte) (r : Nat) :
    invMixColumn (fun i => a i ^^^ b i) r = invMixColumn a r ^^^ invMixColumn b r := by
  obtain _ | _ | _ | r := r <;> simp only [invMixColumn, invMixRow, gfMul_xor_right] <;> ac_rfl

theorem mixRow_zero_xor (a0 a1 a2 a3 b0 b1 b2 b3 : Byte) : mixRow (a0 ^^^ b0) (a1 ^^^ b1) (a2 ^^^ b2) (a3 ^^^ b3) 0 =
    mixRow a0 a1 a2 a3 0 ^^^ mixRow b0 b1 b2 b3 0 := by
  simp only [mixRow, gfMul_xor_right]
  ac_rfl

/-- The coefficients of a row of the matrix add up to 1. -/
theorem invMixColumn_const (v : Byte) (r : Nat) : invMixColumn (fun _ => v) r = v := by
  have hsum : gfMul 0x0E#8 v ^^^ gfMul 0x0B#8 v ^^^ gfMul 0x0D#8 v ^^^ gfMul 0x09#8 v = v := by
    simp only [gfMul_09, gfMul_0B, gfMul_0D, gfMul_0E, BitVec.xor_assoc, BitVec.xor_comm, xor_left_comm,
      xor_xor_cancel_left, BitVec.xor_self, BitVec.xor_zero]
  refine Eq.trans ?_ hsum
  obtain _ | _ | _ | r := r <;> simp only [invMixColumn, invMixRow] <;> ac_rfl

/-- The first row of the forward matrix times each column of the inverse matrix: 1, 0, 0 and 0. -/
theorem mixRow_invMatrix (a : Byte) :
    mixRow (gfMul 0x0E#8 a) (gfMul 0x09#8 a) (gfMul 0x0D#8 a) (gfMul 0x0B#8 a) 0 = a ∧
    mixRow (gfMul 0x0B#8 a) (gfMul 0x0E#8 a) (gfMul 0x09#8 a) (gfMul 0x0D#8 a) 0 = 0x00#8 ∧
    mixRow (gfMul 0x0D#8 a) (gfMul 0x0B#8 a) (gfMul 0x0E#8 a) (gfMul 0x09#8 a) 0 = 0x00#8 ∧
    mixRow (gfMul 0x09#8 a) (gfMul 0x0D#8 a) (gfMul 0x0B#8 a) (gfMul 0x0E#8 a) 0 = 0x00#8 := by
  refine ⟨?_, ?_, ?_, ?_⟩ <;>
    simp only [mixRow, gfMul_02, gfMul_03, gfMul_09, gfMul_0B, gfMul_0D, gfMul_0E, xtime_xor, BitVec.xor_assoc,
      BitVec.xor_comm, xor_left_comm, xor_xor_cancel_left, BitVec.xor_self, BitVec.xor_zero]

theorem mixColumn_invMixColumn_zero (a : Nat → Byte) : mixColumn (invMixColumn a) 0 = a 0 := by
  obtain ⟨hdiag, -, -, -⟩ := mixRow_invMatrix (a 0)
  obtain ⟨-, hoff, -, -⟩ := mixRow_invMatrix (a 1)
  obtain ⟨-, -, hoff', -⟩ := mixRow_invMatrix (a 2)
  obtain ⟨-, -, -, hoff''⟩ := mixRow_invMatrix (a 3)
  simp only [mixColumn, invMixColumn, invMixRow, mixRow_zero_xor, hdiag, hoff, hoff', hoff'', BitVec.xor_zero]

/-- The rows of the forward matrix are its first row rotated. -/
theorem mixColumn_succ (a : Nat → Byte) {r : Nat} (hr : r < 3) :
    mixColumn a (r + 1) = mixColumn (fun i => a ((i + 1) % 4)) r := by
  obtain rfl | rfl | rfl : r = 0 ∨ r = 1 ∨ r = 2 := by omega
  all_goals
    simp only [mixColumn, mixRow, Nat.reduceAdd, Nat.reduceMod]
    ac_rfl

/-- So are the rows of the inverse matrix. -/
theorem invMixColumn_rotated (a : Nat → Byte) {r : Nat} (hr : r < 4) :
    invMixColumn (fun i => a ((i + 1) % 4)) r = invMixColumn a ((r + 1) % 4) := by
  obtain rfl | rfl | rfl | rfl : r = 0 ∨ r = 1 ∨ r = 2 ∨ r = 3 := by omega
  all_goals
    simp only [invMixColumn, invMixRow, Nat.reduceAdd, Nat.reduceMod]
    ac_rfl

/-- The two matrices are inverse: in the first row by their coefficients, in the next rows by rotation. -/
theorem mixColumn_invMixColumn (a : Nat → Byte) {r : Nat} (hr : r < 4) : mixColumn (invMixColumn a) r = a r := by
  induction r generalizing a with
  | zero => exact mixColumn_invMixColumn_zero a
  | succ r ih =>
    calc mixColumn (invMixColumn a) (r + 1)
        = mixColumn (fun i => invMixColumn a ((i + 1) % 4)) r := mixColumn_succ _ (by omega)
      _ = mixColumn (invMixColumn fun i => a ((i + 1) % 4)) r := by
        simp only [mixColumn, invMixColumn_rotated _ (show 0 < 4 by decide), invMixColumn_rotated _ (show 1 < 4 by decide),
          invMixColumn_rotated _ (show 2 < 4 by decide), invMixColumn_rotated _ (show 3 < 4 by decide)]
      _ = a ((r + 1) % 4) := ih _ (by omega)
      _ = a (r + 1) := by rw [Nat.mod_eq_of_lt hr]

/-! ### `INVMIXCOLS` -/

/-- Column `c` of a block. -/
def column (b : Block) (c r : Nat) : Byte := b[4 * c + r]!

theorem block_ext_columns {a b : Block} (h : ∀ c, c < 4 → ∀ r, r < 4 → column a c r = column b c r) : a = b := by
  refine block_ext fun j hj => ?_
  rw [← Nat.div_add_mod j 4]
  exact h (j / 4) (by omega) (j % 4) (by omega)

theorem column_xorBlock (a b : Block) {c r : Nat} (hc : c < 4) (hr : r < 4) :
    column (xorBlock a b) c r = column a c r ^^^ column b c r :=
  xorBlock_getElem! a b (by omega)

theorem column_invMixCols (b : Block) {c r : Nat} (hc : c < 4) (hr : r < 4) :
    column (invMixCols b) c r = invMixColumn (column b c) r := by
  have hdiv : (4 * c + r) / 4 = c := by omega
  have hmod : (4 * c + r) % 4 = r := by omega
  rw [column, invMixCols, getElem!_ofFn _ (by omega)]
  simp only [hdiv, hmod]
  rfl

theorem column_mixCols (b : Block) {c r : Nat} (hc : c < 4) (hr : r < 4) :
    column (mixCols b) c r = mixColumn (column b c) r := by
  have hdiv : (4 * c + r) / 4 = c := by omega
  have hmod : (4 * c + r) % 4 = r := by omega
  rw [column, mixCols, getElem!_ofFn _ (by omega)]
  simp only [hdiv, hmod]
  rfl

theorem mixColumn_congr {a b : Nat → Byte} (h : ∀ i, i < 4 → a i = b i) (r : Nat) : mixColumn a r = mixColumn b r := by
  rw [mixColumn, mixColumn, h 0 (by decide), h 1 (by decide), h 2 (by decide), h 3 (by decide)]

theorem invMixColumn_congr {a b : Nat → Byte} (h : ∀ i, i < 4 → a i = b i) (r : Nat) :
    invMixColumn a r = invMixColumn b r := by
  rw [invMixColumn, invMixColumn, h 0 (by decide), h 1 (by decide), h 2 (by decide), h 3 (by decide)]

@[simp] theorem mixCols_invMixCols (b : Block) : mixCols (invMixCols b) = b :=
  block_ext_columns fun c hc r hr => by
    rw [column_mixCols _ hc hr, mixColumn_congr (fun i hi => column_invMixCols b hc hi), mixColumn_invMixColumn _ hr]

theorem invMixCols_xorBlock (a b : Block) : invMixCols (xorBlock a b) = xorBlock (invMixCols a) (invMixCols b) :=
  block_ext_columns fun c hc r hr => by
    rw [column_xorBlock _ _ hc hr, column_invMixCols _ hc hr, column_invMixCols _ hc hr, column_invMixCols _ hc hr,
      invMixColumn_congr (fun i hi => column_xorBlock a b hc hi), invMixColumn_xor]

/-- Settles O34, one column at a time. -/
theorem invmixcolsMultipliesColumns : Obligations.InvmixcolsMultipliesColumns := by
  refine fun b s => ⟨invMixCols b, rfl, fun c hc => ?_, invMixCols_xorBlock b, fun c v hc hv i hi => ?_, mixCols_invMixCols b⟩
  · exact ⟨column_invMixCols b hc (show 0 < 4 by decide), column_invMixCols b hc (show 1 < 4 by decide),
      column_invMixCols b hc (show 2 < 4 by decide), column_invMixCols b hc (show 3 < 4 by decide)⟩
  · exact (column_invMixCols b hc hi).trans ((invMixColumn_congr hv i).trans (invMixColumn_const v i))

/-! ### The rounds of the inverse cipher -/

/-- The state after the first `k` of the full rounds `n`, `n - 1`, ... (R99). -/
def invRoundsDown (w : Schedule) (n : Nat) (s : Block) : Nat → Block
  | 0 => s
  | k + 1 => invRound w (n - k) (invRoundsDown w n s k)

/-- The rounds still to come, after the first `k`, give the result of all `n`. -/
theorem invRounds_invRoundsDown (w : Schedule) {n r k : Nat} (s : Block) (h : r + k = n) :
    invRounds w r (invRoundsDown w n s k) = invRounds w n s := by
  induction k generalizing r with
  | zero => rw [← h]; rfl
  | succ k ih =>
    have hround : n - k = r + 1 := by omega
    rw [invRoundsDown, hround]
    exact ih (r := r + 1) (by omega)

/-- The state of `InvCipher(c, W)` after the round with round key `r` (R99). -/
def roundState (c : Block) (w : Schedule) (r : Nat) : Block :=
  invRoundsDown w 13 (addRoundKey c (roundKey w 14)) (14 - r)

theorem roundState_first (c : Block) (w : Schedule) : roundState c w 14 = addRoundKey c (roundKey w 14) := rfl

theorem roundState_full (c : Block) (w : Schedule) {r : Nat} (h : r ≤ 13) :
    roundState c w r = invRound w r (roundState c w (r + 1)) := by
  have hcount : 14 - r = 14 - (r + 1) + 1 := by omega
  have hround : 13 - (14 - (r + 1)) = r := by omega
  rw [roundState, hcount, invRoundsDown, hround, roundState]

theorem invCipher_eq_roundState (c : Block) (w : Schedule) : invCipher c w = invFinalRound w (roundState c w 1) :=
  congrArg (invFinalRound w) (invRounds_invRoundsDown w (r := 0) (k := 13) _ rfl).symm

/-- Settles O35: `roundState` is the sequence of states. -/
theorem invCipherFnRunsFourteenRounds : Obligations.InvCipherFnRunsFourteenRounds :=
  fun c w _ => ⟨invCipher c w, roundState c w, rfl, roundState_first c w, fun _ _ hr => roundState_full c w hr,
    invCipher_eq_roundState c w⟩

/-! ### The two ciphers -/

/-- A full round of the fixture's forward cipher. -/
def encRound (w : Schedule) (r : Nat) (s : Block) : Block := addRoundKey (mixCols (shiftRows (subBytes s))) (roundKey w r)

theorem cipherRounds_succ (w : Schedule) (n r : Nat) (s : Block) :
    cipherRounds w (n + 1) r s = encRound w (r + n) (cipherRounds w n r s) := by
  induction n generalizing r s with
  | zero => rfl
  | succ n ih =>
    rw [cipherRounds, ih, Nat.add_right_comm]
    rfl

/-- The forward round with a round key undoes the inverse round with that key, between the two substitutions. -/
theorem encRound_invRound (w : Schedule) (r : Nat) (s : Block) :
    encRound w r (invSubBytes (invShiftRows (invRound w r s))) = invSubBytes (invShiftRows s) := by
  simp [encRound, invRound]

theorem cipherRounds_invRounds (w : Schedule) (n : Nat) (s : Block) :
    cipherRounds w n 1 (invSubBytes (invShiftRows (invRounds w n s))) = invSubBytes (invShiftRows s) := by
  induction n generalizing s with
  | zero => rfl
  | succ n ih => rw [cipherRounds_succ, invRounds, ih, Nat.add_comm 1 n, encRound_invRound]

theorem cipher_invCipher (x : Block) (w : Schedule) : cipher (invCipher x w) w = x := by
  simp [cipher, invCipher, invFinalRound, cipherRounds_invRounds]

theorem finite_block : Finite Block :=
  Finite.of_injective (fun (b : Block) (j : Fin 16) => b[j.val]) fun _ _ h =>
    Vector.ext fun j hj => congrFun h ⟨j, hj⟩

/-- `InvCipher` is injective, since `Cipher` undoes it; the blocks are finitely many, so it is onto and undone on both sides. -/
theorem invCipher_cipher (x : Block) (w : Schedule) : invCipher (cipher x w) w = x := by
  have hundone : Function.LeftInverse (fun b => cipher b w) (fun b => invCipher b w) := fun b => cipher_invCipher b w
  have honto : Function.Surjective fun b => invCipher b w :=
    have := finite_block
    Finite.surjective_of_injective hundone.injective
  exact hundone.rightInverse_of_surjective honto x

/-- Settles O40: the rounds give one direction, counting the other. -/
theorem invCipherInvertsCipher : Obligations.InvCipherInvertsCipher :=
  fun x w => ⟨invCipher_cipher x w, cipher_invCipher x w⟩

end Sys2Proof.Machine

/-! PROOFS. The phase `INVCIPHER` (spec/42_block_decrypt.md R99, R100). -/

namespace Sys2Proof.Machine

/-! ### One round step -/

theorem execInvcipher_first {s : State} (hf : s.engineFault = false) (hr : s.rnd = 14#4) :
    execInvcipher s = .next { s with sreg := addRoundKey s.sreg (roundKey s.w 14), rnd := 13#4 } := by
  rw [execInvcipher, sampled_of_low hf, if_pos hr]

theorem execInvcipher_round {s : State} (hf : s.engineFault = false) (hr : 1 ≤ s.rnd.toNat) (hr' : s.rnd.toNat ≤ 13) :
    execInvcipher s = .next { s with sreg := invRound s.w s.rnd.toNat s.sreg, rnd := s.rnd - 1#4 } := by
  have hfirst : s.rnd ≠ 14#4 := by bv_omega
  have hnone : s.rnd ≠ 15#4 := by bv_omega
  have hfinal : s.rnd ≠ 0#4 := by bv_omega
  rw [execInvcipher, sampled_of_low hf, if_neg hfirst, if_neg hnone, if_neg hfinal]

theorem execInvcipher_final {s : State} (hf : s.engineFault = false) (hr : s.rnd = 0#4) :
    execInvcipher s = .next { s with sreg := invFinalRound s.w s.sreg, phase := .cbcxor } := by
  have hfirst : s.rnd ≠ 14#4 := by simp [hr]
  have hnone : s.rnd ≠ 15#4 := by simp [hr]
  rw [execInvcipher, sampled_of_low hf, if_neg hfirst, if_neg hnone, if_pos hr]

/-- Settles O15: the three arms of the phase, one for each kind of round. -/
theorem invcipherStepIsOneRound : Obligations.InvcipherStepIsOneRound := by
  refine fun s hf => ⟨execInvcipher_first hf, fun k hs hk hk' => ?_, execInvcipher_final hf⟩
  have hnext : s.rnd - 1#4 = BitVec.ofNat 4 (k - 1) := by bv_omega
  subst hs
  rw [← hnext]
  exact execInvcipher_round hf hk hk'

/-! ### The whole phase -/

/-- The steps from `RND = n` on: the full rounds `n` to 1 and the final round (R100). -/
theorem runSteps_invRounds {n : Nat} {s : State} (hp : s.phase = .invcipher) (hr : s.rnd.toNat = n) (hn : n ≤ 13)
    (hi : s.inputs = []) (hf : s.engineFault = false) :
    runSteps (n + 1) s =
      some { s with sreg := invFinalRound s.w (invRounds s.w n s.sreg), rnd := 0#4, phase := .cbcxor } := by
  induction n generalizing s with
  | zero =>
    have hzero : s.rnd = 0#4 := BitVec.eq_of_toNat_eq hr
    rw [runSteps_next (step_of_turn hi (.invFinal hp hf hzero)), ← hzero]
    rfl
  | succ n ih =>
    have hnext : (s.rnd - 1#4).toNat = n := by bv_omega
    rw [runSteps_next (step_of_turn hi (.invRound hp hf (by omega) (by omega))), hr]
    exact ih hp hnext (by omega) hi hf

/-- Settles O16: the first step and the fourteen steps from `RND = 13` on are the lines of `InvCipher`. -/
theorem invcipherPhaseComputesInvCipher : Obligations.InvcipherPhaseComputesInvCipher :=
  fun _ hp hr hi hf =>
    (runSteps_next (step_of_turn hi (.invFirst hp hf hr)) 14).trans
      (runSteps_invRounds (n := 13) hp rfl (Nat.le_refl 13) hi hf)

end Sys2Proof.Machine

/-! PROOFS. Decryption undoes the fixture's encryption (spec/43_cbc_chaining.md R105, R113; spec/44_pkcs7_validator.md R120;
spec/45_decrypt_operation.md R124).

A sequence of whole blocks is written as `joinBlocks n f`, the blocks `f 0` to `f (n - 1)` one after the other; both
directions of the chaining have this form. -/

namespace Sys2Proof.Machine

/-! ### Sequences of whole blocks -/

/-- The blocks `f 0`, ..., `f (n - 1)` as one byte sequence. -/
def joinBlocks (n : Nat) (f : Nat → Block) : List Byte := (List.range n).flatMap fun i => (f i).toList

theorem joinBlocks_succ (n : Nat) (f : Nat → Block) : joinBlocks (n + 1) f = joinBlocks n f ++ (f n).toList := by
  simp [joinBlocks, List.range_succ]

@[simp] theorem joinBlocks_length (n : Nat) (f : Nat → Block) : (joinBlocks n f).length = 16 * n := by
  induction n with
  | zero => rfl
  | succ n ih => rw [joinBlocks_succ, List.length_append, ih, Vector.length_toList, Nat.mul_succ]

theorem blockOf_getElem! (x : List Byte) (i : Nat) {j : Nat} (hj : j < 16) :
    (blockOf x i)[j]! = x.getD (16 * i + j) 0x00#8 :=
  getElem!_ofFn _ hj

theorem blockOf_toList (b : Block) : blockOf b.toList 0 = b :=
  block_ext fun j hj => by
    rw [blockOf_getElem! _ _ hj, getElem!_pos b j hj]
    simp [hj]

/-- A block of the sequence, whatever follows it. -/
theorem blockOf_append_of_lt {x : List Byte} {i : Nat} (h : 16 * i + 16 ≤ x.length) (y : List Byte) :
    blockOf (x ++ y) i = blockOf x i :=
  block_ext fun j hj => by
    rw [blockOf_getElem! _ _ hj, blockOf_getElem! _ _ hj, List.getD_append _ _ _ _ (by omega)]

theorem blockOf_append_of_length {x : List Byte} {i : Nat} (h : x.length = 16 * i) (b : Block) :
    blockOf (x ++ b.toList) i = b := by
  refine Eq.trans (block_ext fun j hj => ?_) (blockOf_toList b)
  rw [blockOf_getElem! _ _ hj, blockOf_getElem! _ _ hj, List.getD_append_right _ _ _ _ (by omega), h]
  congr 1
  omega

theorem blockOf_joinBlocks {n i : Nat} (hi : i < n) (f : Nat → Block) : blockOf (joinBlocks n f) i = f i := by
  induction n with
  | zero => omega
  | succ n ih =>
    rw [joinBlocks_succ]
    obtain rfl | hlt := Nat.eq_or_lt_of_le (Nat.le_of_lt_succ hi)
    · exact blockOf_append_of_length (joinBlocks_length i f) _
    · rw [blockOf_append_of_lt (by rw [joinBlocks_length]; omega), ih hlt]

/-- Sequences of whole blocks are equal when their blocks are. -/
theorem eq_of_blockOf_eq {n : Nat} {x y : List Byte} (hx : x.length = 16 * n) (hy : y.length = 16 * n)
    (h : ∀ i, i < n → blockOf x i = blockOf y i) : x = y := by
  refine List.ext_getElem (hx.trans hy.symm) fun a ha ha' => ?_
  have hj : a % 16 < 16 := Nat.mod_lt a (by decide)
  have hbyte := congrArg (fun b : Block => b[a % 16]!) (h (a / 16) (by omega))
  rwa [blockOf_getElem! x _ hj, blockOf_getElem! y _ hj, Nat.div_add_mod, List.getD_eq_getElem _ _ ha,
    List.getD_eq_getElem _ _ ha'] at hbyte

/-! ### CBC -/

theorem cbcDecrypt_length (w : Schedule) (iv : Block) {ct : List Byte} (h : ct.length % 16 = 0) :
    (cbcDecrypt w iv ct).length = ct.length :=
  (joinBlocks_length (ct.length / 16) (decBlock w iv ct)).trans (by omega)

theorem cbcEncrypt_length (w : Schedule) (iv : Block) {m : List Byte} (h : m.length % 16 = 0) :
    (cbcEncrypt w iv m).length = m.length :=
  (joinBlocks_length (m.length / 16) (encBlock w iv m)).trans (by omega)

theorem blockOf_cbcDecrypt (w : Schedule) (iv : Block) (ct : List Byte) {i : Nat} (hi : i < ct.length / 16) :
    blockOf (cbcDecrypt w iv ct) i = decBlock w iv ct i :=
  blockOf_joinBlocks hi _

theorem blockOf_cbcEncrypt (w : Schedule) (iv : Block) (m : List Byte) {i : Nat} (hi : i < m.length / 16) :
    blockOf (cbcEncrypt w iv m) i = encBlock w iv m i :=
  blockOf_joinBlocks hi _

/-- Both directions chain a block to the same block: the IV, or the ciphertext block before it. -/
theorem encBlock_eq (w : Schedule) (iv : Block) (m : List Byte) {i : Nat} (hi : i < m.length / 16) :
    encBlock w iv m i = cipher (xorBlock (blockOf m i) (chainBlock iv (cbcEncrypt w iv m) i)) w := by
  cases i with
  | zero => rfl
  | succ i => rw [encBlock, chainBlock, blockOf_cbcEncrypt w iv m (by omega)]

theorem decBlock_cbcEncrypt (w : Schedule) (iv : Block) (m : List Byte) {i : Nat} (hi : i < m.length / 16) :
    decBlock w iv (cbcEncrypt w iv m) i = blockOf m i := by
  rw [decBlock, blockOf_cbcEncrypt w iv m hi, encBlock_eq w iv m hi, invCipher_cipher, xorBlock_xorBlock_cancel]

/-- `CbcDecrypt` undoes the fixture's CBC encryption (R113 (b)), block by block. -/
theorem cbcDecrypt_cbcEncrypt (w : Schedule) (iv : Block) {m : List Byte} (h : m.length % 16 = 0) :
    cbcDecrypt w iv (cbcEncrypt w iv m) = m := by
  have hlen := cbcEncrypt_length w iv h
  refine eq_of_blockOf_eq (n := m.length / 16) ?_ (by omega) fun i hi => ?_
  · rw [cbcDecrypt_length w iv (hlen ▸ h)]
    omega
  · rw [blockOf_cbcDecrypt w iv _ (hlen ▸ hi), decBlock_cbcEncrypt w iv m hi]

/-! ### Padding -/

theorem padCount_range (pt : List Byte) : 1 ≤ padCount pt ∧ padCount pt ≤ 16 := by
  unfold padCount
  omega

theorem pad_length (pt : List Byte) : (pad pt).length = pt.length + padCount pt := by
  simp [pad]

theorem pad_length_aligned (pt : List Byte) : (pad pt).length % 16 = 0 := by
  rw [pad_length, padCount]
  omega

/-- The last `padCount pt` bytes of the padded sequence are padding. -/
theorem pad_getD {pt : List Byte} {j : Nat} (hj : j < padCount pt) :
    (pad pt).getD ((pad pt).length - (j + 1)) 0x00#8 = BitVec.ofNat 8 (padCount pt) := by
  rw [pad_length, pad, List.getD_append_right _ _ _ _ (by omega)]
  exact List.getD_replicate _ (by omega)

/-- `Unpad` of a sequence whose last `p` bytes have the value `p`. -/
theorem unpad_of_uniform {dec : List Byte} {p : Byte} (hp : 1 ≤ p.toNat) (hp' : p.toNat ≤ 16)
    (hlen : p.toNat ≤ dec.length) (h : ∀ j, j < p.toNat → dec.getD (dec.length - (j + 1)) 0x00#8 = p) :
    unpad dec = .ok (dec.take (dec.length - p.toNat)) := by
  have hlast : dec.getD (dec.length - 1) 0x00#8 = p := h 0 hp
  have hrange : padOutOfRange p = false := by
    simp only [padOutOfRange, Bool.or_eq_false_iff, decide_eq_false_iff_not]
    omega
  have htrailing : trailingBytesEqual dec p = true := by simpa [trailingBytesEqual] using h
  simp only [unpad, hlast, hrange, Bool.false_eq_true, if_false, if_neg (Nat.not_lt.2 hlen), htrailing, if_true]

theorem unpad_pad (pt : List Byte) : unpad (pad pt) = .ok pt := by
  obtain ⟨hpos, hle⟩ := padCount_range pt
  have hp : (BitVec.ofNat 8 (padCount pt)).toNat = padCount pt := by
    rw [BitVec.toNat_ofNat]
    omega
  rw [unpad_of_uniform (p := BitVec.ofNat 8 (padCount pt)) (by omega) (by omega) (by rw [pad_length]; omega)
    fun j hj => pad_getD (hp ▸ hj), hp, pad_length, Nat.add_sub_cancel, pad, List.take_left]

/-! ### A whole request -/

theorem keyOfBytes_toList (key : Key) : keyOfBytes key.toList = key :=
  Vector.ext fun j hj => by simp [keyOfBytes]

/-- `Decrypt` on operands that pass every check (R124). -/
theorem decrypt_of_accepted {ctMax : Nat} {ct : List Byte} (key : Key) (iv : Block) (hpos : ct.length ≠ 0)
    (haligned : ct.length % 16 = 0) (hfits : ct.length ≤ ctMax) :
    decrypt ctMax key.toList iv.toList ct false = unpad (cbcDecrypt (keyExpansion key) iv ct) := by
  have hct : ¬ (ct.length = 0 ∨ ct.length % 16 ≠ 0) := by omega
  rw [decrypt, if_neg (not_not.2 (Vector.length_toList)), if_neg (not_not.2 (Vector.length_toList)), if_neg hct,
    if_neg (Nat.not_lt.2 hfits), if_neg Bool.false_ne_true, keyOfBytes_toList, blockOf_toList]

theorem decrypt_encrypt {ctMax : Nat} (key : Key) (iv : Block) {pt : List Byte} (h : (pad pt).length ≤ ctMax) :
    decrypt ctMax key.toList iv.toList (encrypt key iv pt) false = .ok pt := by
  have haligned := pad_length_aligned pt
  have hlen : (encrypt key iv pt).length = (pad pt).length := cbcEncrypt_length _ iv haligned
  have hpos : (pad pt).length ≠ 0 := by
    have := (padCount_range pt).1
    rw [pad_length]
    omega
  rw [decrypt_of_accepted key iv (hlen ▸ hpos) (hlen ▸ haligned) (hlen ▸ h), encrypt, cbcDecrypt_cbcEncrypt _ iv haligned,
    unpad_pad]

/-- Settles O47: the ciphertext passes every check, and then chaining and padding are undone in turn. -/
theorem decryptInvertsEncrypt : Obligations.DecryptInvertsEncrypt := by
  intro key iv pt s h
  rw [exec, execDecryptFn, decrypt_encrypt key iv h, returnPure]

end Sys2Proof.Machine

/-! PROOFS. The CBC chaining, as the phases `LOADBLK` and `CBCXOR` and as the function `CbcDecrypt`
(spec/43_cbc_chaining.md R105 to R108, R110, R113).

Both are followed byte by byte: what `CBCXOR` leaves at an offset of `DEC`, and byte `a` of `CbcDecrypt`, which depends on
ciphertext block `a / 16` and on byte `a % 16` of the block chained to it. -/

namespace Sys2Proof.Machine

/-! ### The phases `LOADBLK` and `CBCXOR` -/

theorem ctBlock_getElem! (s : State) {j : Nat} (hj : j < 16) : (ctBlock s)[j]! = s.byteAt .ctbuf (16 * s.blk + j) :=
  getElem!_ofFn _ hj

/-- Settles O14: the block that `LOADBLK` takes is `ctBlock`. -/
theorem loadblkTakesCiphertextBlock : Obligations.LoadblkTakesCiphertextBlock :=
  fun s hf hb => ⟨_, ctBlock s, execLoadblk_fits hf hb, rfl, fun _ hj => ctBlock_getElem! s hj⟩

/-- What `DEC` holds after `CBCXOR`: the sixteen bytes of block `BLK` are new (R107). -/
theorem blockStored_byteAt_dec {s : State} (h : Memory.wf .dec s.dec) (a : Nat) : (blockStored s).byteAt .dec a =
    if 16 * s.blk ≤ a ∧ a < 16 * s.blk + 16 then (xorBlock s.sreg s.prev)[a - 16 * s.blk]! else s.byteAt .dec a := by
  rw [State.byteAt, State.buf, blockStored_dec, blockOffset, cellByte_memStoreBytes h, Vector.length_toList]
  split_ifs with hin
  · have hj : a - 16 * s.blk < 16 := by omega
    rw [getElem!_pos (xorBlock s.sreg s.prev) _ hj]
    simp [hj]
  · rfl

/-- The control transfer in one expression: to the next block, or to the validator with `BLK` as it was (R107, R108). -/
theorem nextBlock_eq (s : State) : nextBlock s =
    { s with
      blk := if s.blk + 1 < s.ctlen / 16 then s.blk + 1 else s.blk
      phase := if s.blk + 1 < s.ctlen / 16 then .loadblk else .padread } := by
  obtain ⟨hn, he⟩ | ⟨hn, he⟩ := nextBlock_cases s
  · rw [he, if_pos hn, if_pos hn]
  · rw [he, if_neg hn, if_neg hn]

/-- Settles O17: the bytes are those of `blockStored`, which the control transfer keeps. -/
theorem cbcxorStoresDecryptedBlock : Obligations.CbcxorStoresDecryptedBlock := by
  intro s hf hwf hb
  have hdec (a : Nat) : (nextBlock (blockStored s)).byteAt .dec a = (blockStored s).byteAt .dec a :=
    byteAt_congr (by simp only [State.buf, nextBlock_dec]) a
  have hexec : exec .cbcxor s = .next (nextBlock (blockStored s)) := by
    rw [exec]
    exact execCbcxor_fits hf hb
  refine ⟨nextBlock (blockStored s), hexec, ?_, fun j hj => ?_, fun a ha => ?_⟩
  · rw [nextBlock_eq, blockStored]
  · rw [hdec, blockStored_byteAt_dec hwf, if_pos (by omega), Nat.add_sub_cancel_left, xorBlock_getElem! _ _ hj]
  · rw [hdec, blockStored_byteAt_dec hwf, if_neg (by omega)]

/-- With nothing queued, a step is the operation of the phase. -/
theorem step_of_exec {s t : State} (hi : s.inputs = []) (h : exec s.phase.instr s = .next t) : step s = .next t := by
  rw [step_nil hi, sequencerStep_eq, h]

/-- Settles O18: `LOADBLK`, the fifteen round steps and `CBCXOR` in turn. -/
theorem blockTakesSeventeenSteps : Obligations.BlockTakesSeventeenSteps := by
  intro s cb hp hi hf hwf hb hcb
  have hblock : ctBlock s = cb := block_ext fun j hj => (ctBlock_getElem! s hj).trans (hcb j hj).symm
  have hload : step s = .next { s with sreg := cb, cur := cb, rnd := 14#4, phase := .invcipher } :=
    hblock ▸ step_of_turn hi (.loadblk hp hf hb)
  have hrounds := invcipherPhaseComputesInvCipher { s with sreg := cb, cur := cb, rnd := 14#4, phase := .invcipher }
    rfl rfl hi hf
  obtain ⟨t, hxor, ht, hin, hout⟩ := cbcxorStoresDecryptedBlock
    { s with sreg := invCipher cb s.w, cur := cb, rnd := 0#4, phase := .cbcxor } hf hwf hb
  refine ⟨t, ?_, ht, hin, fun a ha => (hout a ha).trans (byteAt_congr (by simp only [State.buf]) a)⟩
  have hlast : step { s with sreg := invCipher cb s.w, cur := cb, rnd := 0#4, phase := .cbcxor } = .next t :=
    step_of_exec hi hxor
  rw [runSteps_next hload, runSteps_add 15 1, hrounds, Option.bind_some, runSteps_next hlast, runSteps]

/-! ### Bytes of a sequence of blocks -/

theorem blockOf_byte (x : List Byte) (i : Nat) {j : Nat} (hj : j < 16) : (blockOf x i)[j]! = x[16 * i + j]! := by
  rw [blockOf_getElem! x i hj, List.getElem!_eq_getElem?_getD, List.getD_eq_getElem?_getD]
  rfl

theorem byte_eq_blockOf (x : List Byte) (a : Nat) : x[a]! = (blockOf x (a / 16))[a % 16]! := by
  rw [blockOf_byte x _ (Nat.mod_lt a (by decide)), Nat.div_add_mod]

theorem blockOf_congr {x y : List Byte} {i : Nat} (h : ∀ j, j < 16 → x[16 * i + j]! = y[16 * i + j]!) :
    blockOf x i = blockOf y i :=
  block_ext fun j hj => by rw [blockOf_byte x i hj, blockOf_byte y i hj, h j hj]

/-- Blocks that differ, differ in some byte. -/
theorem exists_byte_ne_of_blockOf_ne {x y : List Byte} {i : Nat} (h : blockOf x i ≠ blockOf y i) :
    ∃ a, a / 16 = i ∧ x[a]! ≠ y[a]! := by
  by_contra hall
  push Not at hall
  exact h (blockOf_congr fun j hj => hall _ (by omega))

theorem joinBlocks_add (n k : Nat) (f : Nat → Block) :
    joinBlocks (n + k) f = joinBlocks n f ++ joinBlocks k fun i => f (n + i) := by
  induction k with
  | zero => exact (List.append_nil _).symm
  | succ k ih => rw [← Nat.add_assoc, joinBlocks_succ, joinBlocks_succ, ih, List.append_assoc]

theorem joinBlocks_congr {n : Nat} {f g : Nat → Block} (h : ∀ i, i < n → f i = g i) : joinBlocks n f = joinBlocks n g := by
  induction n with
  | zero => rfl
  | succ n ih =>
    rw [joinBlocks_succ, joinBlocks_succ, h n (Nat.lt_succ_self n), ih fun i hi => h i (Nat.lt_succ_of_lt hi)]

/-! ### `CbcDecrypt` byte by byte -/

theorem decBlock_getElem! (w : Schedule) (iv : Block) (ct : List Byte) (i : Nat) {j : Nat} (hj : j < 16) :
    (decBlock w iv ct i)[j]! = (invCipher (blockOf ct i) w)[j]! ^^^ (chainBlock iv ct i)[j]! :=
  xorBlock_getElem! _ _ hj

theorem chainBlock_getElem! (iv : Block) (ct : List Byte) (i : Nat) {j : Nat} (hj : j < 16) :
    (chainBlock iv ct i)[j]! = if i = 0 then iv[j]! else ct[16 * (i - 1) + j]! := by
  cases i with
  | zero => rfl
  | succ i => exact blockOf_byte ct i hj

/-- Byte `a` of the decrypted sequence (R105). -/
theorem cbcDecrypt_byte (w : Schedule) (iv : Block) {ct : List Byte} {a : Nat} (ha : a / 16 < ct.length / 16) :
    (cbcDecrypt w iv ct)[a]! =
      (invCipher (blockOf ct (a / 16)) w)[a % 16]! ^^^ (chainBlock iv ct (a / 16))[a % 16]! := by
  rw [byte_eq_blockOf, blockOf_cbcDecrypt w iv ct ha, decBlock_getElem! _ _ _ _ (Nat.mod_lt a (by decide))]

/-- `CbcDecrypt` on its domain (R105). -/
theorem execCbcDecryptFn_inside {ct : List Byte} (hpos : 16 ≤ ct.length) (haligned : ct.length % 16 = 0) (w : Schedule)
    (iv : Block) (s : State) :
    execCbcDecryptFn w iv ct s = .next { s with pureValue := some (.bytes (cbcDecrypt w iv ct)) } :=
  if_pos (by simp [wholeBlocks, atLeastOneBlock, hpos, haligned])

/-- Settles O36: byte `16 i + j` of the decrypted sequence is byte `j` of `decBlock i`. -/
theorem cbcDecryptFnChainsBlocks : Obligations.CbcDecryptFnChainsBlocks := by
  intro w iv ct s hpos haligned
  refine ⟨cbcDecrypt w iv ct, execCbcDecryptFn_inside hpos haligned w iv s, cbcDecrypt_length w iv haligned, ?_⟩
  intro i cb hi hcb j hj
  have hblock : blockOf ct i = cb := block_ext fun k hk => (blockOf_byte ct i hk).trans (hcb k hk).symm
  rw [← blockOf_byte _ i hj, blockOf_cbcDecrypt w iv ct (by omega), decBlock_getElem! w iv ct i hj, hblock,
    chainBlock_getElem! iv ct i hj]

/-! ### The inverse of CBC encryption -/

/-- Encryption meets the ciphertext blocks in the order in which it chains to them. -/
theorem encBlock_cbcDecrypt (w : Schedule) (iv : Block) (ct : List Byte) {i : Nat} (hi : i < ct.length / 16) :
    encBlock w iv (cbcDecrypt w iv ct) i = blockOf ct i := by
  induction i with
  | zero => rw [encBlock, blockOf_cbcDecrypt w iv ct hi, decBlock, chainBlock, xorBlock_xorBlock_cancel, cipher_invCipher]
  | succ i ih =>
    rw [encBlock, ih (by omega), blockOf_cbcDecrypt w iv ct hi, decBlock, chainBlock, xorBlock_xorBlock_cancel,
      cipher_invCipher]

/-- The fixture's CBC encryption undoes `CbcDecrypt` (R113 (b)). -/
theorem cbcEncrypt_cbcDecrypt (w : Schedule) (iv : Block) {ct : List Byte} (h : ct.length % 16 = 0) :
    cbcEncrypt w iv (cbcDecrypt w iv ct) = ct := by
  have hlen := cbcDecrypt_length w iv h
  refine eq_of_blockOf_eq (n := ct.length / 16) ?_ (by omega) fun i hi => ?_
  · rw [cbcEncrypt_length w iv (hlen ▸ h)]
    omega
  · rw [blockOf_cbcEncrypt w iv _ (hlen ▸ hi), encBlock_cbcDecrypt w iv ct hi]

/-- Settles O41: encryption is inverse to `CbcDecrypt` on both sides, and the second side makes it injective. -/
theorem cbcDecryptInvertsCbcEncrypt : Obligations.CbcDecryptInvertsCbcEncrypt := by
  intro w iv m m' h h'
  refine ⟨cbcDecrypt_length w iv h, cbcDecrypt_cbcEncrypt w iv h, fun heq => ?_⟩
  rw [← cbcEncrypt_cbcDecrypt w iv h, heq, cbcEncrypt_cbcDecrypt w iv h']

/-! ### Concatenation -/

theorem blockOf_append_add {x : List Byte} {n : Nat} (h : x.length = 16 * n) (y : List Byte) (i : Nat) :
    blockOf (x ++ y) (n + i) = blockOf y i :=
  block_ext fun j hj => by
    have hoff : 16 * (n + i) + j - 16 * n = 16 * i + j := by omega
    rw [blockOf_getElem! _ _ hj, blockOf_getElem! _ _ hj, List.getD_append_right _ _ _ _ (by omega), h, hoff]

/-- The blocks before the boundary do not depend on what follows. -/
theorem decBlock_append_of_lt (w : Schedule) (iv : Block) {x : List Byte} {i : Nat} (h : 16 * i + 16 ≤ x.length)
    (y : List Byte) : decBlock w iv (x ++ y) i = decBlock w iv x i := by
  cases i with
  | zero => rw [decBlock, decBlock, blockOf_append_of_lt h, chainBlock, chainBlock]
  | succ i =>
    rw [decBlock, decBlock, blockOf_append_of_lt h, chainBlock, chainBlock, blockOf_append_of_lt (by omega)]

/-- The blocks after the boundary take the last block before it in place of the IV. -/
theorem decBlock_append_add (w : Schedule) (iv : Block) {x : List Byte} {n : Nat} (h : x.length = 16 * (n + 1))
    (y : List Byte) (i : Nat) : decBlock w iv (x ++ y) (n + 1 + i) = decBlock w (blockOf x n) y i := by
  have hchain : chainBlock iv (x ++ y) (n + 1 + i) = chainBlock (blockOf x n) y i := by
    cases i with
    | zero => exact blockOf_append_of_lt (by omega) y
    | succ i => exact blockOf_append_add h y i
  rw [decBlock, decBlock, blockOf_append_add h, hchain]

/-- `CbcDecrypt` splits after a non-empty part of whole blocks (R113 (c)). -/
theorem cbcDecrypt_append (w : Schedule) (iv : Block) {x : List Byte} {n : Nat} (h : x.length = 16 * (n + 1))
    (y : List Byte) : cbcDecrypt w iv (x ++ y) = cbcDecrypt w iv x ++ cbcDecrypt w (blockOf x n) y := by
  have hx : x.length / 16 = n + 1 := by omega
  have hxy : (x ++ y).length / 16 = n + 1 + y.length / 16 := by rw [List.length_append]; omega
  calc cbcDecrypt w iv (x ++ y)
      = joinBlocks (n + 1 + y.length / 16) (decBlock w iv (x ++ y)) := by rw [cbcDecrypt, hxy, joinBlocks]
    _ = joinBlocks (n + 1) (decBlock w iv (x ++ y)) ++
        joinBlocks (y.length / 16) fun i => decBlock w iv (x ++ y) (n + 1 + i) := joinBlocks_add _ _ _
    _ = joinBlocks (n + 1) (decBlock w iv x) ++ joinBlocks (y.length / 16) (decBlock w (blockOf x n) y) := by
      rw [joinBlocks_congr fun i hi => decBlock_append_of_lt w iv (by omega) y,
        joinBlocks_congr fun i _ => decBlock_append_add w iv h y i]
    _ = cbcDecrypt w iv x ++ cbcDecrypt w (blockOf x n) y := by rw [cbcDecrypt, cbcDecrypt, hx, joinBlocks, joinBlocks]

/-- Settles O42: the last sixteen bytes of the first part are its last block. -/
theorem cbcDecryptSplitsAtBlocks : Obligations.CbcDecryptSplitsAtBlocks := by
  intro w iv last ct1 ct2 hpos haligned _ hlast
  have hlen : ct1.length = 16 * (ct1.length / 16 - 1 + 1) := by omega
  have hblock : blockOf ct1 (ct1.length / 16 - 1) = last := by
    have hsplit : ct1.take (ct1.length - 16) ++ last.toList = ct1 := by rw [hlast, List.take_append_drop]
    rw [← hsplit]
    exact blockOf_append_of_length (by simp; omega) last
  rw [cbcDecrypt_append w iv hlen, hblock]

/-! ### How far a change reaches -/

theorem chainBlock_xorBlock_iv (iv d : Block) (ct : List Byte) (i : Nat) {j : Nat} (hj : j < 16) :
    (chainBlock (xorBlock iv d) ct i)[j]! = (chainBlock iv ct i)[j]! ^^^ (if i = 0 then d[j]! else 0x00#8) := by
  cases i with
  | zero => rw [if_pos rfl, chainBlock, chainBlock, xorBlock_getElem! iv d hj]
  | succ i => rw [if_neg (Nat.succ_ne_zero i), chainBlock, chainBlock, BitVec.xor_zero]

/-- A change of the IV is seen in decrypted block 0 alone, as it is (R110 (b)). -/
theorem cbcDecrypt_xorBlock_iv (w : Schedule) (iv d : Block) {ct : List Byte} {a : Nat} (ha : a / 16 < ct.length / 16) :
    (cbcDecrypt w (xorBlock iv d) ct)[a]! = (cbcDecrypt w iv ct)[a]! ^^^ (if a < 16 then d[a]! else 0x00#8) := by
  rw [cbcDecrypt_byte w _ ha, cbcDecrypt_byte w iv ha, chainBlock_xorBlock_iv iv d ct _ (Nat.mod_lt a (by decide)),
    BitVec.xor_assoc]
  by_cases hfirst : a < 16
  · rw [if_pos hfirst, if_pos (Nat.div_eq_of_lt hfirst), Nat.mod_eq_of_lt hfirst]
  · rw [if_neg hfirst, if_neg (by omega)]

theorem chainBlock_congr (iv : Block) {ct ct' : List Byte} {k : Nat} (h : ∀ i, i + 1 = k → blockOf ct' i = blockOf ct i) :
    chainBlock iv ct' k = chainBlock iv ct k := by
  cases k with
  | zero => rfl
  | succ k => exact h k rfl

theorem invCipher_injective {x y : Block} {w : Schedule} (h : invCipher x w = invCipher y w) : x = y := by
  rw [← cipher_invCipher x w, h, cipher_invCipher]

/-- A block decrypts to another value when it is changed and the block before it is not. -/
theorem decBlock_ne (w : Schedule) (iv : Block) {ct ct' : List Byte} {i : Nat} (hne : blockOf ct' i ≠ blockOf ct i)
    (hchain : chainBlock iv ct' i = chainBlock iv ct i) : decBlock w iv ct' i ≠ decBlock w iv ct i := by
  intro heq
  rw [decBlock, decBlock, hchain] at heq
  have hinv := congrArg (fun b => xorBlock b (chainBlock iv ct i)) heq
  simp only [xorBlock_xorBlock_cancel] at hinv
  exact hne (invCipher_injective hinv)

/-- The ciphertexts differ in block `i` alone. -/
structure DifferInBlock (i : Nat) (ct ct' : List Byte) : Prop where
  length : ct'.length = ct.length
  aligned : ct.length % 16 = 0
  byte : ∀ a, a < ct.length → a / 16 ≠ i → ct'[a]! = ct[a]!

/-- Beyond the end of both, the blocks are equal too. -/
theorem DifferInBlock.blockOf_eq {i k : Nat} {ct ct' : List Byte} (h : DifferInBlock i ct ct') (hk : k ≠ i) :
    blockOf ct' k = blockOf ct k := by
  refine blockOf_congr fun j hj => ?_
  by_cases hin : 16 * k + j < ct.length
  · exact h.byte _ hin (by omega)
  · have hlen := h.length
    rw [getElem!_neg ct' _ (by omega), getElem!_neg ct _ hin]

theorem DifferInBlock.chainBlock_eq {i k : Nat} {ct ct' : List Byte} (h : DifferInBlock i ct ct') (hk : k ≠ i + 1)
    (iv : Block) : chainBlock iv ct' k = chainBlock iv ct k :=
  chainBlock_congr iv fun _ hi => h.blockOf_eq (by omega)

/-- Every other decrypted block is as it was. -/
theorem DifferInBlock.cbcDecrypt_of_ne {i a : Nat} {ct ct' : List Byte} (h : DifferInBlock i ct ct')
    (ha : a / 16 < ct.length / 16) (hi : a / 16 ≠ i) (hi' : a / 16 ≠ i + 1) (w : Schedule) (iv : Block) :
    (cbcDecrypt w iv ct')[a]! = (cbcDecrypt w iv ct)[a]! := by
  rw [cbcDecrypt_byte w iv (h.length ▸ ha), cbcDecrypt_byte w iv ha, h.blockOf_eq hi, h.chainBlock_eq hi']

/-- The next decrypted block changes as the ciphertext block does. -/
theorem DifferInBlock.cbcDecrypt_succ {i a : Nat} {ct ct' : List Byte} (h : DifferInBlock i ct ct')
    (ha : a / 16 < ct.length / 16) (hi : a / 16 = i + 1) (w : Schedule) (iv : Block) :
    (cbcDecrypt w iv ct')[a]! = (cbcDecrypt w iv ct)[a]! ^^^ (ct[a - 16]! ^^^ ct'[a - 16]!) := by
  have hprev : 16 * i + a % 16 = a - 16 := by omega
  have hchain (x : List Byte) : (chainBlock iv x (a / 16))[a % 16]! = x[a - 16]! := by
    rw [hi, chainBlock, blockOf_byte x i (Nat.mod_lt a (by decide)), hprev]
  rw [cbcDecrypt_byte w iv (h.length ▸ ha), cbcDecrypt_byte w iv ha, hchain, hchain, h.blockOf_eq (by omega),
    BitVec.xor_assoc, xor_xor_cancel_left]

/-- The decrypted block itself changes. -/
theorem DifferInBlock.exists_cbcDecrypt_ne {i : Nat} {ct ct' : List Byte} (h : DifferInBlock i ct ct') (hne : ct' ≠ ct)
    (w : Schedule) (iv : Block) :
    ∃ a, a < ct.length ∧ a / 16 = i ∧ (cbcDecrypt w iv ct')[a]! ≠ (cbcDecrypt w iv ct)[a]! := by
  have hlen := h.length
  have haligned := h.aligned
  obtain ⟨k, hk, hblock⟩ : ∃ k, k < ct.length / 16 ∧ blockOf ct' k ≠ blockOf ct k := by
    by_contra hall
    push Not at hall
    exact hne (eq_of_blockOf_eq (n := ct.length / 16) (by omega) (by omega) hall)
  obtain rfl : k = i := by
    by_contra hki
    exact hblock (h.blockOf_eq hki)
  have hdec : blockOf (cbcDecrypt w iv ct') k ≠ blockOf (cbcDecrypt w iv ct) k := by
    rw [blockOf_cbcDecrypt w iv ct' (hlen ▸ hk), blockOf_cbcDecrypt w iv ct hk]
    exact decBlock_ne w iv hblock (h.chainBlock_eq (by omega) iv)
  obtain ⟨a, ha, hbyte⟩ := exists_byte_ne_of_blockOf_ne hdec
  exact ⟨a, by omega, ha, hbyte⟩

/-- Settles O43: a decrypted byte depends on its own ciphertext block and on the block chained to it. -/
theorem ciphertextChangesStayLocal : Obligations.CiphertextChangesStayLocal := by
  intro w iv d ct ct' haligned hlen
  refine ⟨fun a ha => cbcDecrypt_xorBlock_iv w iv d (by omega), fun i hbytes => ?_⟩
  have h : DifferInBlock i ct ct' := ⟨hlen, haligned, hbytes⟩
  exact ⟨fun a ha hi hi' => h.cbcDecrypt_of_ne (by omega) hi hi' w iv, fun a ha hi => h.cbcDecrypt_succ (by omega) hi w iv,
    fun hne => h.exists_cbcDecrypt_ne hne w iv⟩

end Sys2Proof.Machine

/-! PROOFS. The padding validator, as the phases `PADREAD` to `TRUNC` and as the function `Unpad`
(spec/44_pkcs7_validator.md R115 to R122; the padder of spec/95_test_vectors.md section 0).

The padding bytes are counted from the end, `j = 1` the last. `unpad_eq_ite` reads the strict policy as the other one
of R121 with the check of the padding bytes put before it. Counted so, neither check of the last block sees what stands in front
of it. -/

namespace Sys2Proof.Machine

/-! ### The checks -/

theorem padOutOfRange_eq_true {p : Byte} : padOutOfRange p = true ↔ p.toNat < 1 ∨ 16 < p.toNat := by
  simp [padOutOfRange]

/-- A byte beyond the end reads as the model's default. -/
theorem getElem!_eq_getD (x : List Byte) (i : Nat) : x[i]! = x.getD i 0x00#8 := by
  rw [List.getElem!_eq_getElem?_getD, List.getD_eq_getElem?_getD]
  rfl

/-- The check of `PADFULL` on the last block (R118). -/
theorem paddingUniform_eq_true {p : Byte} {last : Block} :
    paddingUniform p last = true ↔ ∀ j, 1 ≤ j → j ≤ 16 → j ≤ p.toNat → last[16 - j]! = p := by
  simp only [paddingUniform, List.all_eq_true, List.mem_range, Bool.not_eq_true', Bool.and_eq_false_imp,
    decide_eq_true_eq, bne_eq_false_iff_eq]
  constructor
  · intro h j hpos hle hp
    obtain ⟨i, rfl⟩ := Nat.exists_eq_add_of_le' hpos
    rw [Nat.add_comm i 1, Nat.sub_add_eq]
    exact h i hle hp
  · intro h i hi hp
    have hj := h (i + 1) (Nat.le_add_left 1 i) hi hp
    rwa [Nat.add_comm i 1, Nat.sub_add_eq] at hj

/-- The check of `Unpad` on the whole sequence (R120 step 5). -/
theorem trailingBytesEqual_eq_true {dec : List Byte} {p : Byte} :
    trailingBytesEqual dec p = true ↔ ∀ j, 1 ≤ j → j ≤ p.toNat → dec[dec.length - j]! = p := by
  simp only [trailingBytesEqual, List.all_eq_true, List.mem_range, beq_iff_eq, ← getElem!_eq_getD]
  constructor
  · intro h j hpos hp
    obtain ⟨i, rfl⟩ := Nat.exists_eq_add_of_le' hpos
    exact h i hp
  · exact fun h i hi => h (i + 1) (Nat.le_add_left 1 i) hi

theorem trailingBytesEqual_eq_false {dec : List Byte} {p : Byte} :
    trailingBytesEqual dec p = false ↔ ∃ j, 1 ≤ j ∧ j ≤ p.toNat ∧ dec[dec.length - j]! ≠ p := by
  rw [← Bool.not_eq_true, trailingBytesEqual_eq_true]
  push Not
  rfl

/-! ### The phases -/

/-- Settles O19: the offset `CTLEN - 1` lies in `DEC`. -/
theorem padreadTakesLastByte : Obligations.PadreadTakesLastByte := by
  intro s hpos hfits
  have hb : lastByte s = some (s.byteAt .dec (s.ctlen - 1)) := lastByte_eq_some.2 ⟨hpos, by omega, rfl⟩
  rw [exec, execPadread, hb]

/-- Settles O20: the two clauses are the two values of `padOutOfRange`. -/
theorem padrangeChecksOneToSixteen : Obligations.PadrangeChecksOneToSixteen := by
  intro s
  refine ⟨fun hpos hle => ?_, fun hout => ?_⟩
  · rw [exec, execPadrange, padOutOfRange_eq_false.2 ⟨hpos, hle⟩, if_neg Bool.false_ne_true]
  · rw [exec, execPadrange, if_pos (padOutOfRange_eq_true.2 hout), raise]

/-- Settles O21: the two clauses are the branches of the comparison. -/
theorem padlenChecksLength : Obligations.PadlenChecksLength :=
  fun _ => ⟨fun hle => if_neg (Nat.not_lt.2 hle), fun hlt => if_pos hlt⟩

/-- The last block of `DEC`, its bytes counted from the end. -/
theorem exists_lastBlock_eq {s : State} (hblock : 16 ≤ s.ctlen) (hfits : s.ctlen ≤ s.params.ctMax) :
    ∃ b, lastBlock s = some b ∧ ∀ j, 1 ≤ j → j ≤ 16 → b[16 - j]! = s.byteAt .dec (s.ctlen - j) := by
  refine ⟨_, lastBlock_eq_some.2 ⟨hblock, hfits, rfl⟩, fun j hpos hle => ?_⟩
  have hoff : s.ctlen - 16 + (16 - j) = s.ctlen - j := by omega
  rw [getElem!_ofFn _ (by omega), hoff]

/-- Settles O22: position `16 - j` of the last block is byte `CTLEN - j` of `DEC`. -/
theorem padfullChecksEveryPaddingByte : Obligations.PadfullChecksEveryPaddingByte := by
  intro s hblock hfits
  obtain ⟨b, hb, hbyte⟩ := exists_lastBlock_eq hblock hfits
  refine ⟨fun hall => ?_, fun ⟨j, hpos, hle, hp, hne⟩ => ?_⟩
  · have huniform : paddingUniform s.p b = true :=
      paddingUniform_eq_true.2 fun j hpos hle hp => (hbyte j hpos hle).trans (hall j hpos hle hp)
    rw [exec, execPadfull, hb]
    exact if_pos huniform
  · have hmismatch : ¬ paddingUniform s.p b = true := fun h =>
      hne ((hbyte j hpos hle).symm.trans (paddingUniform_eq_true.1 h j hpos hle hp))
    rw [exec, execPadfull, hb]
    exact if_neg hmismatch

/-- Settles O23: the subtraction is the branch taken where it does not underflow. -/
theorem truncSetsPlaintextLength : Obligations.TruncSetsPlaintextLength :=
  fun _ hle => if_neg (Nat.not_lt.2 hle)

/-! ### The two policies -/

theorem unpadLastByteOnly_of_outOfRange {dec : List Byte} (h : padOutOfRange dec[dec.length - 1]! = true) :
    unpadLastByteOnly dec = .err .invalidPadding := by
  rw [getElem!_eq_getD] at h
  exact if_pos h

/-- The length check passes on a whole block (R117). -/
theorem unpadLastByteOnly_of_inRange {dec : List Byte} (hlen : 16 ≤ dec.length)
    (h : padOutOfRange dec[dec.length - 1]! = false) :
    unpadLastByteOnly dec = .ok (dec.take (dec.length - dec[dec.length - 1]!.toNat)) := by
  have hle := (padOutOfRange_eq_false.1 h).2
  rw [getElem!_eq_getD] at h hle ⊢
  exact (if_neg (Bool.not_eq_true _ ▸ h)).trans (if_neg (Nat.not_lt.2 (hle.trans hlen)))

/-- The strict policy is the other one behind the check of the padding bytes (R121). -/
theorem unpad_eq_ite (dec : List Byte) : unpad dec =
    if trailingBytesEqual dec dec[dec.length - 1]! then unpadLastByteOnly dec else .err .invalidPadding := by
  rw [getElem!_eq_getD]
  simp only [unpad, unpadLastByteOnly]
  split_ifs <;> rfl

theorem unpad_of_outOfRange {dec : List Byte} (h : padOutOfRange dec[dec.length - 1]! = true) :
    unpad dec = .err .invalidPadding := by
  rw [unpad_eq_ite, unpadLastByteOnly_of_outOfRange h, ite_self]

theorem unpad_of_trailing {dec : List Byte} (h : trailingBytesEqual dec dec[dec.length - 1]! = true) :
    unpad dec = unpadLastByteOnly dec := by
  rw [unpad_eq_ite, if_pos h]

theorem unpad_of_mismatch {dec : List Byte} (h : trailingBytesEqual dec dec[dec.length - 1]! = false) :
    unpad dec = .err .invalidPadding := by
  rw [unpad_eq_ite, h, if_neg Bool.false_ne_true]

/-- Settles O37: each clause is one outcome of the range check and the check of the padding bytes. -/
theorem unpadFnIsStrict : Obligations.UnpadFnIsStrict := by
  rintro dec p s hlen rfl
  have hdomain : atLeastOneBlock dec = true := decide_eq_true hlen
  refine ⟨unpad dec, if_pos hdomain, fun ⟨hpos, hle, hall⟩ => ?_, fun hbad => ?_⟩
  · rw [unpad_of_trailing (trailingBytesEqual_eq_true.2 hall),
      unpadLastByteOnly_of_inRange hlen (padOutOfRange_eq_false.2 ⟨hpos, hle⟩)]
  · obtain hlow | hhigh | hmismatch := hbad
    · exact unpad_of_outOfRange (padOutOfRange_eq_true.2 (.inl hlow))
    · exact unpad_of_outOfRange (padOutOfRange_eq_true.2 (.inr hhigh))
    · exact unpad_of_mismatch (trailingBytesEqual_eq_false.2 hmismatch)

/-- Settles O46: outside the range both policies fail, and inside it they differ in the check of the padding bytes alone. -/
theorem strictPolicyAgainstLastByteOnly : Obligations.StrictPolicyAgainstLastByteOnly := by
  rintro dec p hlen rfl
  refine ⟨fun pt hok => ?_, fun hout => ?_, fun hpos hle hmismatch => ?_, fun hne => ?_⟩
  · cases htrailing : trailingBytesEqual dec dec[dec.length - 1]! with
    | true => rwa [← unpad_of_trailing htrailing]
    | false => rw [unpad_of_mismatch htrailing] at hok; cases hok
  · have hrange := padOutOfRange_eq_true.2 hout
    exact ⟨unpad_of_outOfRange hrange, unpadLastByteOnly_of_outOfRange hrange⟩
  · exact ⟨unpad_of_mismatch (trailingBytesEqual_eq_false.2 hmismatch),
      unpadLastByteOnly_of_inRange hlen (padOutOfRange_eq_false.2 ⟨hpos, hle⟩)⟩
  · have hrange : padOutOfRange dec[dec.length - 1]! = false := Bool.eq_false_iff.2 fun h =>
      hne ((unpad_of_outOfRange h).trans (unpadLastByteOnly_of_outOfRange h).symm)
    have htrailing := Bool.eq_false_iff.2 (mt unpad_of_trailing hne)
    obtain ⟨hpos, hle⟩ := padOutOfRange_eq_false.1 hrange
    exact ⟨hpos, hle, trailingBytesEqual_eq_false.1 htrailing⟩

/-- Settles O44 by `unpad_pad`. -/
theorem unpadInvertsPad : Obligations.UnpadInvertsPad := unpad_pad

/-! ### The last block -/

/-- A byte counted from the end, whatever stands in front of the sequence. -/
theorem append_getElem!_fromEnd (front : List Byte) {last : List Byte} {j : Nat} (hj : j ≤ last.length) :
    (front ++ last)[(front ++ last).length - j]! = last[last.length - j]! := by
  have hoff : (front ++ last).length - j - front.length = last.length - j := by
    rw [List.length_append]
    omega
  rw [List.getElem!_eq_getElem?_getD, List.getElem!_eq_getElem?_getD,
    List.getElem?_append_right (by rw [List.length_append]; omega), hoff]

theorem trailingBytesEqual_append (front : List Byte) {last : List Byte} {p : Byte} (hp : p.toNat ≤ last.length) :
    trailingBytesEqual (front ++ last) p = trailingBytesEqual last p := by
  rw [Bool.eq_iff_iff, trailingBytesEqual_eq_true, trailingBytesEqual_eq_true]
  refine forall₃_congr fun j _ hjp => ?_
  rw [append_getElem!_fromEnd front (hjp.trans hp)]

/-- What stands in front of the last block has no part in the verdict and is kept whole (R122). -/
theorem unpad_append_cases {last : List Byte} (hlen : last.length = 16) :
    (∀ front, unpad (front ++ last) = .err .invalidPadding) ∨
      ∃ n, n < 16 ∧ ∀ front, unpad (front ++ last) = .ok (front ++ last.take n) := by
  have hlast (front : List Byte) : (front ++ last)[(front ++ last).length - 1]! = last[last.length - 1]! :=
    append_getElem!_fromEnd front (by omega)
  cases hrange : padOutOfRange last[last.length - 1]! with
  | true => exact .inl fun front => unpad_of_outOfRange (by rwa [hlast])
  | false =>
    obtain ⟨hpos, hle⟩ := padOutOfRange_eq_false.1 hrange
    have htrailing (front : List Byte) :=
      trailingBytesEqual_append front (p := last[last.length - 1]!) (hle.trans hlen.ge)
    cases hlastTrailing : trailingBytesEqual last last[last.length - 1]! with
    | false => exact .inl fun front => unpad_of_mismatch (by rw [hlast, htrailing, hlastTrailing])
    | true =>
      refine .inr ⟨16 - last[last.length - 1]!.toNat, by omega, fun front => ?_⟩
      have hkept : (front ++ last).length - last[last.length - 1]!.toNat =
          front.length + (16 - last[last.length - 1]!.toNat) := by
        rw [List.length_append]
        omega
      rw [unpad_of_trailing (by rw [hlast, htrailing, hlastTrailing]),
        unpadLastByteOnly_of_inRange (by rw [List.length_append]; omega) (by rwa [hlast]), hlast, hkept,
        List.take_length_add_append]

/-- Settles O45: `unpad_append_cases` at the two fronts. -/
theorem lastBlockDecidesUnpad : Obligations.LastBlockDecidesUnpad := by
  intro front front' last hlen
  obtain herr | ⟨n, hn, hok⟩ := unpad_append_cases hlen
  · exact .inl ⟨herr front, herr front'⟩
  · exact .inr ⟨n, hn, hok front, hok front'⟩

end Sys2Proof.Machine

/-! PROOFS. The commands, and the phases that begin and end a request (spec/45_decrypt_operation.md R126 to R128, R134 to R137,
R140), and the function `Decrypt` (R124).

Each operation is given by one equation per case; the obligations about single operations are these equations with what the
port then shows. -/

namespace Sys2Proof.Machine

/-! ### The commands -/

theorem execStart_of_idle {s : State} (h : s.phase = .idle) : execStart s = .next { s with phase := .validate } := if_pos h

theorem execStart_of_done {s : State} (h : s.phase = .done) :
    execStart s = .next { clearResponse s with phase := .validate } :=
  (if_neg (by simp [h])).trans (if_pos h)

theorem execStart_of_busy {s : State} (hb : isBusy s = true) : execStart s = .next s := by
  obtain ⟨hidle, hdone⟩ := isBusy_eq_true.1 hb
  rw [execStart, if_neg hidle, if_neg hdone]

theorem clearResponse_byteAt_dec (s : State) (a : Nat) : (clearResponse s).byteAt .dec a = 0x00#8 := by
  rw [State.byteAt, State.buf, clearResponse_dec, cellByte_memZeroFrom_dec, if_neg (Nat.not_lt_zero a)]

/-- Settles O6: one equation of `START` for `IDLE`, one for `DONE` and one for the other phases. -/
theorem startBeginsRequest : Obligations.StartBeginsRequest := by
  intro s
  refine ⟨execStart_of_idle, fun hp => ?_, execStart_of_busy, fun hb => ?_⟩
  · exact ⟨_, execStart_of_done hp, rfl, clearResponse_byteAt_dec s⟩
  · obtain hp | hp := isBusy_eq_false.1 hb
    · exact ⟨_, execStart_of_idle hp, rfl, rfl, rfl⟩
    · exact ⟨_, execStart_of_done hp, rfl, rfl, rfl⟩

/-- Settles O7: after the release of the response the port is in `IDLE`, where `STAT` reads 0. -/
theorem clearReleasesResponse : Obligations.ClearReleasesResponse :=
  fun s => ⟨fun hp => ⟨{ clearResponse s with phase := .idle }, if_pos hp, rfl, clearResponse_byteAt_dec s, rfl,
    statByte_of_idle rfl⟩, fun hp => if_neg hp⟩

/-! ### The resting phases -/

/-- Settles O8: the sequencer's turn in either phase is the state itself. -/
theorem restingPhasesDoNothing : Obligations.RestingPhasesDoNothing := by
  refine fun s => ⟨⟨rfl, rfl⟩, fun hp => ?_, fun hp => ?_⟩
  · have hd : isDone s = false := by simp [isDone, hp]
    exact ⟨step_of_turn rfl (.idle hp), statByte_of_idle hp, ptlenRead_of_not_done hd, ptByte_of_not_done hd⟩
  · have hd : isDone s = true := by simp [isDone, hp]
    exact ⟨step_of_turn rfl (.done hp), statByte_toNat_of_done hp, if_pos hd⟩

/-! ### `VALIDATE` -/

theorem ctLengthBad_eq_true {n : Nat} : ctLengthBad n = true ↔ n = 0 ∨ n % 16 ≠ 0 := by
  simp [ctLengthBad]

theorem ctLengthBad_eq_false {n : Nat} : ctLengthBad n = false ↔ n ≠ 0 ∧ n % 16 = 0 := by
  simp [ctLengthBad]

theorem execValidate_of_keyLength {s : State} (hk : s.klen ≠ 32) : execValidate s = .next (raise .invalidKeyLength s) :=
  if_pos hk

theorem execValidate_of_ivLength {s : State} (hk : s.klen = 32) (hi : s.ivlen ≠ 16) :
    execValidate s = .next (raise .invalidIvLength s) :=
  (if_neg (not_not.2 hk)).trans (if_pos hi)

theorem execValidate_of_ctLength {s : State} (hk : s.klen = 32) (hi : s.ivlen = 16) (hc : ctLengthBad s.ctlen = true) :
    execValidate s = .next (raise .invalidCiphertextLength s) :=
  (if_neg (not_not.2 hk)).trans <| (if_neg (not_not.2 hi)).trans (if_pos hc)

/-- With the three lengths right, the capacity decides (R131). -/
theorem execValidate_of_lengths {s : State} (hk : s.klen = 32) (hi : s.ivlen = 16) (hc : ctLengthBad s.ctlen = false) :
    execValidate s = if s.params.ctMax < s.ctlen then .next (raise .cipherEngineFailure s)
      else .next { s with prev := ivOperand s, phase := .kexp } :=
  (if_neg (not_not.2 hk)).trans <| (if_neg (not_not.2 hi)).trans (if_neg (Bool.eq_false_iff.1 hc))

/-- Settles O9: the checks in their order; the IV taken is `ivOperand`. -/
theorem validateChecksInOrder : Obligations.ValidateChecksInOrder := by
  refine fun s => ⟨execValidate_of_keyLength, execValidate_of_ivLength,
    fun hk hi hc => execValidate_of_ctLength hk hi (ctLengthBad_eq_true.2 hc), fun hk hi hc hc' hm => ?_,
    fun hk hi hc hc' hm => ?_⟩
  · exact (execValidate_of_lengths hk hi (ctLengthBad_eq_false.2 ⟨hc, hc'⟩)).trans (if_pos hm)
  · exact ⟨{ s with prev := ivOperand s, phase := .kexp },
      (execValidate_of_lengths hk hi (ctLengthBad_eq_false.2 ⟨hc, hc'⟩)).trans (if_neg (Nat.not_lt.2 hm)), rfl,
      fun j hj => getElem!_ofFn _ hj⟩

/-! ### `FAIL` and `WIPE` -/

/-- Settles O24: the definitions of `raise` and of `FAIL` are the statement. -/
theorem failClearsPlaintextLength : Obligations.FailClearsPlaintextLength := fun _ => ⟨fun _ => rfl, rfl⟩

/-- A buffer reads 0x00 where the wipe has stored zeros. -/
theorem cellByte_zeroed {b : Buf} {m : Memory} (h : Memory.wf b m) {n a : Nat} (ha : a < n) :
    cellByte b (memStoreBytes b m 0 (List.replicate n 0x00#8)) a = 0x00#8 := by
  rw [cellByte_memStoreBytes h, List.length_replicate, if_pos (by omega)]
  exact List.getD_replicate _ (by omega)

theorem wiped_byteAt_keybuf {s : State} (h : Memory.wf .keybuf s.keybuf) {a : Nat} (ha : a < 32) :
    (wiped s).byteAt .keybuf a = 0x00#8 := by
  rw [State.byteAt, State.buf, wiped_keybuf, cellByte_zeroed h ha]

theorem wiped_byteAt_ivbuf {s : State} (h : Memory.wf .ivbuf s.ivbuf) {a : Nat} (ha : a < 16) :
    (wiped s).byteAt .ivbuf a = 0x00#8 := by
  rw [State.byteAt, State.buf, wiped_ivbuf, cellByte_zeroed h ha]

theorem wiped_byteAt_dec (s : State) (a : Nat) :
    (wiped s).byteAt .dec a = if a < keptByWipe s then s.byteAt .dec a else 0x00#8 := by
  rw [State.byteAt, State.buf, wiped_dec, cellByte_memZeroFrom_dec, State.byteAt, State.buf]

/-- The transfer to another phase leaves the buffers. -/
theorem byteAt_withPhase (s : State) (ph : Phase) (b : Buf) (a : Nat) :
    State.byteAt { s with phase := ph } b a = s.byteAt b a :=
  byteAt_congr (by cases b <;> rfl) a

/-- Settles O25: the registers by the definition of `wiped`, the buffers byte by byte. -/
theorem wipeZeroesSecrets : Obligations.WipeZeroesSecrets := by
  intro s hkey hiv
  refine ⟨{ wiped s with phase := .done }, rfl, ?_, fun a ha => ?_, fun a ha => ?_, fun he a => ?_, fun he a => ?_, rfl, rfl⟩
  · simp only [wiped, zeroSchedule, zeroBlock]
  · rw [byteAt_withPhase, wiped_byteAt_keybuf hkey ha]
  · rw [byteAt_withPhase, wiped_byteAt_ivbuf hiv ha]
  · rw [byteAt_withPhase, wiped_byteAt_dec, keptByWipe, if_neg he, if_neg (Nat.not_lt_zero a)]
  · rw [byteAt_withPhase, wiped_byteAt_dec, keptByWipe, if_pos he]

/-! ### What the host reads during a request -/

/-- Settles O51: a read answers `regValue` or `windowByte`, and with `BUSY = 1` the one of `STAT` is 0x01, that of `PTLEN` and
of `PT` 0. -/
theorem busyPortHidesTheRequest : Obligations.BusyPortHidesTheRequest := by
  intro s rest hb
  have hd : isDone s = false := by simp [isDone, (isBusy_eq_true.1 hb).2]
  refine ⟨fun h => step_readReg h ?_, fun h => step_readReg h ?_, fun j hj h => ?_, fun j hj h => step_readByte h hj,
    fun j hj h => step_readByte h hj, fun j hj h => step_readByte h hj⟩
  · rw [regValue, statByte_of_busy hb]
    rfl
  · rw [regValue, ptlenRead_of_not_done hd]
  · rw [step_readByte h hj, windowByte, ptByte_of_not_done hd]

/-! ### `Decrypt` -/

section
variable {ctMax : Nat} {key iv ct : List Byte} {fault : Bool}

theorem decrypt_of_keyLength (hk : key.length ≠ 32) : decrypt ctMax key iv ct fault = .err .invalidKeyLength := if_pos hk

theorem decrypt_of_ivLength (hk : key.length = 32) (hi : iv.length ≠ 16) :
    decrypt ctMax key iv ct fault = .err .invalidIvLength :=
  (if_neg (not_not.2 hk)).trans (if_pos hi)

theorem decrypt_of_ctLength (hk : key.length = 32) (hi : iv.length = 16) (hc : ct.length = 0 ∨ ct.length % 16 ≠ 0) :
    decrypt ctMax key iv ct fault = .err .invalidCiphertextLength :=
  (if_neg (not_not.2 hk)).trans <| (if_neg (not_not.2 hi)).trans (if_pos hc)

/-- With the three lengths right, the capacity and then the input decide (R124). -/
theorem decrypt_of_lengths (hk : key.length = 32) (hi : iv.length = 16) (hc : ct.length ≠ 0 ∧ ct.length % 16 = 0) :
    decrypt ctMax key iv ct fault = if ctMax < ct.length ∨ fault = true then .err .cipherEngineFailure
      else unpad (cbcDecrypt (keyExpansion (keyOfBytes key)) (blockOf iv 0) ct) := by
  have hct : ¬ (ct.length = 0 ∨ ct.length % 16 ≠ 0) := by omega
  rw [decrypt, if_neg (not_not.2 hk), if_neg (not_not.2 hi), if_neg hct, ite_or]

end

/-- Settles O38: the conditions in their order, and `decrypt_of_accepted` where none holds. -/
theorem decryptFnFollowsContract : Obligations.DecryptFnFollowsContract := by
  refine fun key iv ct fault s => ⟨decrypt s.params.ctMax key iv ct fault, rfl, decrypt_of_keyLength, decrypt_of_ivLength,
    decrypt_of_ctLength, fun hk hi hc hc' hm => ?_, fun hk hi hc hc' hm hf => ?_, ?_⟩
  · exact (decrypt_of_lengths hk hi ⟨hc, hc'⟩).trans (if_pos (.inl hm))
  · exact (decrypt_of_lengths hk hi ⟨hc, hc'⟩).trans (if_pos (.inr hf))
  · rintro k v rfl rfl hc hc' hm rfl
    exact decrypt_of_accepted k v hc hc' hm

end Sys2Proof.Machine

/-! PROOFS. What a request comes to when the host is quiet: its response is the result of `Decrypt` on the operands and on the
level of `ENGINE_FAULT` it began with (spec/45_decrypt_operation.md R124, R139, R141).

`Ends s r` says that the run from `s` comes to `DONE` with the response `r`. It is proved backwards along a request: from a
raise, from the padding validator, from a block and the blocks after it, and from `VALIDATE`. -/

namespace Sys2Proof.Machine

/-! ### Runs -/

/-- Runs one after the other. -/
theorem runSteps_trans {m n : Nat} {s t : State} {r : Option State} (hs : runSteps m s = some t) (ht : runSteps n t = r) :
    runSteps (m + n) s = r := by
  rw [runSteps_add, hs, Option.bind_some, ht]

/-- What every step keeps holds after any number of steps. -/
theorem runSteps_induct {P : State → Prop} (hstep : ∀ s t, P s → step s = .next t → P t) {n : Nat} {s t : State} (hs : P s)
    (hrun : runSteps n s = some t) : P t := by
  induction n generalizing s with
  | zero =>
    cases hrun
    exact hs
  | succ n ih =>
    rw [runSteps] at hrun
    split at hrun
    · next u hu => exact ih (hstep s u hs hu) hrun
    · cases hrun
    · cases hrun

theorem Inv.runSteps {n : Nat} {s t : State} (h : Inv s) (hrun : runSteps n s = some t) : Inv t :=
  runSteps_induct everyStepKeepsInvariant h hrun

/-- Under the invariant a step with nothing queued is a turn of the sequencer. -/
theorem Inv.turn_of_step {s t : State} (h : Inv s) (hi : s.inputs = []) (hstep : step s = .next t) : SeqTurn s t := by
  rw [step_nil hi] at hstep
  exact h.turn_of_sequencerStep hstep

/-- With nothing queued, what every turn of the sequencer keeps holds along the run. -/
theorem Inv.runSteps_turns {P : State → Prop} (hturn : ∀ u v, Inv u → P u → SeqTurn u v → P v) {n : Nat} {s t : State}
    (h : Inv s) (hi : s.inputs = []) (hs : P s) (hrun : Machine.runSteps n s = some t) : P t := by
  refine (runSteps_induct (P := fun u => Inv u ∧ u.inputs = [] ∧ P u) (fun u v hu hv => ?_) ⟨h, hi, hs⟩ hrun).2.2
  obtain ⟨hinv, hin, hP⟩ := hu
  have ht := hinv.turn_of_step hin hv
  exact ⟨hinv.turn ht, ht.inputs_eq.trans hin, hturn u v hinv hP ht⟩

theorem Inv.runSteps_inputs {n : Nat} {s t : State} (h : Inv s) (hi : s.inputs = []) (hrun : Machine.runSteps n s = some t) :
    t.inputs = [] :=
  h.runSteps_turns (fun _ _ _ hu ht => ht.inputs_eq.trans hu) hi hi hrun

/-- With nothing queued the machine rests in `DONE` (R136). -/
theorem runSteps_of_done {s : State} (hi : s.inputs = []) (hp : s.phase = .done) (n : Nat) : runSteps n s = some s := by
  induction n with
  | zero => rfl
  | succ n ih => rw [runSteps_next (step_of_turn hi (.done hp)), ih]

/-! ### The response a run comes to -/

/-- The run from `s` comes to `DONE`, with the response `r`. -/
def Ends (s : State) (r : DecryptResult) : Prop := ∃ n t, runSteps n s = some t ∧ t.phase = .done ∧ response t = r

theorem Ends.of_runSteps {n : Nat} {s t : State} {r : DecryptResult} (hrun : runSteps n s = some t) (ht : Ends t r) :
    Ends s r := by
  obtain ⟨k, u, hk, hu⟩ := ht
  exact ⟨n + k, u, runSteps_trans hrun hk, hu⟩

theorem Ends.of_turn {s t : State} {r : DecryptResult} (hi : s.inputs = []) (hturn : SeqTurn s t) (ht : Ends t r) :
    Ends s r :=
  .of_runSteps (n := 1) (runSteps_next (step_of_turn hi hturn) 0) ht

/-- The response does not depend on when `DONE` is looked at. -/
theorem Ends.response_eq {n : Nat} {s t : State} {r : DecryptResult} (he : Ends s r) (h : Inv s) (hi : s.inputs = [])
    (hrun : runSteps n s = some t) (hp : t.phase = .done) : response t = r := by
  obtain ⟨k, u, hk, hu, rfl⟩ := he
  have ht : runSteps (n + k) s = some t := runSteps_trans hrun (runSteps_of_done (h.runSteps_inputs hi hrun) hp k)
  have hu' : runSteps (k + n) s = some u := runSteps_trans hk (runSteps_of_done (h.runSteps_inputs hi hk) hu n)
  rw [Nat.add_comm, hu'] at ht
  cases ht
  rfl

/-! ### After a raise -/

theorem response_of_ok {s : State} (h : s.status = .ok) : response s = .ok ((List.range s.ptlen).map (ptByte s)) := by
  rw [response, h]

theorem response_of_err {s : State} {k : ErrorKind} (h : s.status = .err k) : response s = .err k := by
  rw [response, h]

/-- The state in `DONE` after a raise, `FAIL` and `WIPE` (R134, R135). -/
def failed (k : ErrorKind) (s : State) : State :=
  { wiped { raise k s with ptlen := 0, phase := .wipe } with phase := .done }

theorem failed_status (k : ErrorKind) (s : State) : (failed k s).status = .err k := rfl

theorem runSteps_of_raises {s : State} {k : ErrorKind} (hr : Raises s k) (hi : s.inputs = []) :
    runSteps 3 s = some (failed k s) := by
  have hraise : step s = .next (raise k s) := step_of_turn hi (.raise hr)
  have hfail : step (raise k s) = .next { raise k s with ptlen := 0, phase := .wipe } := step_of_turn hi (.fail rfl)
  have hwipe : step { raise k s with ptlen := 0, phase := .wipe } = .next (failed k s) := step_of_turn hi (.wipe rfl)
  rw [runSteps_next hraise, runSteps_next hfail, runSteps_next hwipe, runSteps]

theorem ends_of_raises {s : State} {k : ErrorKind} (hr : Raises s k) (hi : s.inputs = []) : Ends s (.err k) :=
  ⟨3, failed k s, runSteps_of_raises hr hi, rfl, response_of_err (failed_status k s)⟩

/-! ### The padding validator -/

/-- The response after a success: the bytes of `DEC` below `PTLEN` (R51, R135). -/
theorem response_wiped {s : State} (he : s.errk = .ok) :
    response { wiped s with phase := .done } = .ok ((List.range s.ptlen).map (s.byteAt .dec)) := by
  have hstatus : (wiped s).status = .ok := (wiped_status s).trans he
  refine (response_of_ok (s := { wiped s with phase := .done }) hstatus).trans ?_
  refine congrArg _ (List.map_congr_left fun j hj => ?_)
  have hlt : j < s.ptlen := List.mem_range.1 hj
  have hopen : ptOpen { wiped s with phase := .done } j = true := ptOpen_eq_true.2 ⟨rfl, hstatus, hlt⟩
  have hkept : j < keptByWipe s := by rwa [keptByWipe, if_pos he]
  rw [ptByte, if_pos hopen, byteAt_withPhase, wiped_byteAt_dec, if_pos hkept]

/-- After the last block: the request is accepted, no error is pending, and `DEC` holds the decrypted sequence `dec`. -/
structure Decrypted (s : State) (dec : List Byte) : Prop where
  inputs : s.inputs = []
  accepted : Accepted s
  errk : s.errk = .ok
  length : dec.length = s.ctlen
  byte : ∀ a, a < s.ctlen → s.byteAt .dec a = dec[a]!

section
variable {s : State} {dec : List Byte}

/-- The validator changes `P` and `PHASE` alone before `TRUNC` (R115 to R118). -/
theorem Decrypted.frame (h : Decrypted s dec) (p : Byte) (ph : Phase) : Decrypted { s with p := p, phase := ph } dec :=
  ⟨h.inputs, h.accepted.frame, h.errk, h.length, h.byte⟩

/-- The bytes that `TRUNC` leaves in front of the padding (R119). -/
theorem Decrypted.take (h : Decrypted s dec) {n : Nat} (hn : n ≤ s.ctlen) :
    (List.range n).map (s.byteAt .dec) = dec.take n := by
  have hlen := h.length
  refine List.ext_getElem (by simp [hlen, hn]) fun a ha _ => ?_
  have ha' : a < n := by simpa using ha
  rw [List.getElem_map, List.getElem_range, List.getElem_take, h.byte a (by omega), getElem!_pos dec a (by omega)]

/-- The check of `PADFULL` on the last block is that of `Unpad` on the whole sequence (R118, R120). -/
theorem Decrypted.paddingUniform_eq {p : Byte} {b : Block} (h : Decrypted s dec) (hp : p.toNat ≤ 16)
    (hb : ∀ j, 1 ≤ j → j ≤ 16 → b[16 - j]! = s.byteAt .dec (s.ctlen - j)) :
    paddingUniform p b = trailingBytesEqual dec p := by
  have hpos := h.accepted.ctlen_pos
  have hbyte (j : Nat) (hj : 1 ≤ j) (hj' : j ≤ 16) : b[16 - j]! = dec[dec.length - j]! := by
    rw [hb j hj hj', h.byte _ (by omega), h.length]
  rw [Bool.eq_iff_iff, paddingUniform_eq_true, trailingBytesEqual_eq_true]
  constructor
  · intro hall j hj hjp
    rw [← hbyte j hj (hjp.trans hp)]
    exact hall j hj (hjp.trans hp) hjp
  · intro hall j hj hj' hjp
    rw [hbyte j hj hj']
    exact hall j hj hjp

theorem ends_of_trunc (h : Decrypted s dec) (hp : s.phase = .trunc) (hle : s.p.toNat ≤ s.ctlen) :
    Ends s (.ok (dec.take (dec.length - s.p.toNat))) := by
  rw [h.length, ← h.take (Nat.sub_le _ _)]
  exact .of_turn h.inputs (.trunc hp hle) <| .of_turn h.inputs (.wipe rfl) ⟨0, _, rfl, rfl, response_wiped h.errk⟩

/-- With `P` in range, the check of the padding bytes decides (R118, R120 step 5). -/
theorem ends_of_padfull (h : Decrypted s dec) (hp : s.phase = .padfull) (hpad : s.p = dec[dec.length - 1]!)
    (hrange : padOutOfRange s.p = false) : Ends s (unpad dec) := by
  have hpos := h.accepted.ctlen_pos
  have hle := (padOutOfRange_eq_false.1 hrange).2
  obtain ⟨b, hb, hbyte⟩ := exists_lastBlock_eq hpos h.accepted.ctlen_fits
  have huniform := h.paddingUniform_eq hle hbyte
  cases htrailing : trailingBytesEqual dec s.p with
  | true =>
    rw [unpad_of_trailing (hpad ▸ htrailing), unpadLastByteOnly_of_inRange (h.length ▸ hpos) (hpad ▸ hrange), ← hpad]
    exact .of_turn h.inputs (.padfull hp hb (huniform.trans htrailing)) <|
      ends_of_trunc (h.frame s.p .trunc) rfl (hle.trans hpos)
  | false =>
    rw [unpad_of_mismatch (hpad ▸ htrailing)]
    exact ends_of_raises (.padBytes hp hb (huniform.trans htrailing)) h.inputs

/-- The range check decides first; the length check passes on a whole block (R116, R117). -/
theorem ends_of_padrange (h : Decrypted s dec) (hp : s.phase = .padrange) (hpad : s.p = dec[dec.length - 1]!) :
    Ends s (unpad dec) := by
  cases hrange : padOutOfRange s.p with
  | true =>
    rw [unpad_of_outOfRange (hpad ▸ hrange)]
    exact ends_of_raises (.padRange hp hrange) h.inputs
  | false =>
    have hle : s.p.toNat ≤ s.ctlen := (padOutOfRange_eq_false.1 hrange).2.trans h.accepted.ctlen_pos
    exact .of_turn h.inputs (.padrange hp hrange) <| .of_turn h.inputs (.padlen rfl hle) <|
      ends_of_padfull (h.frame s.p .padfull) rfl hpad hrange

/-- From `PADREAD` the validator computes `Unpad` of what `DEC` holds (R115 to R120). -/
theorem ends_of_padread (h : Decrypted s dec) (hp : s.phase = .padread) : Ends s (unpad dec) := by
  have hpos := h.accepted.ctlen_pos
  have hfits := h.accepted.ctlen_fits
  have hlast : lastByte s = some dec[dec.length - 1]! :=
    lastByte_eq_some.2 ⟨by omega, by omega, by rw [h.length, h.byte _ (by omega)]⟩
  exact .of_turn h.inputs (.padread hp hlast) (ends_of_padrange (h.frame _ .padrange) rfl rfl)

end

/-! ### The blocks -/

/-- Before `LOADBLK` of block `BLK`: the chaining register holds the block it is chained to, and `DEC` the blocks before it
(R105 to R108). -/
structure ChainedTo (iv : Block) (s : State) : Prop where
  prev : s.prev = chainBlock iv (ctOperand s) s.blk
  byte : ∀ a, a < 16 * s.blk → s.byteAt .dec a = (cbcDecrypt s.w iv (ctOperand s))[a]!

@[simp] theorem ctOperand_length (s : State) : (ctOperand s).length = s.ctlen := by simp [ctOperand]

theorem blockOf_ctOperand {s : State} {i j : Nat} (hi : 16 * i + 16 ≤ s.ctlen) (hj : j < 16) :
    (blockOf (ctOperand s) i)[j]! = s.byteAt .ctbuf (16 * i + j) := by
  rw [blockOf_byte _ _ hj, getElem!_pos (ctOperand s) _ (by rw [ctOperand_length]; omega)]
  simp [ctOperand]

/-- The state after one more block, with the contents `d` of `DEC` (R106, R99, R107). -/
def blockDone (s : State) (d : Memory) : State :=
  { s with
    dec := d
    sreg := invCipher (blockOf (ctOperand s) s.blk) s.w
    prev := blockOf (ctOperand s) s.blk
    cur := blockOf (ctOperand s) s.blk
    rnd := 0#4
    blk := if s.blk + 1 < s.ctlen / 16 then s.blk + 1 else s.blk
    phase := if s.blk + 1 < s.ctlen / 16 then .loadblk else .padread }

theorem ctOperand_blockDone (s : State) (d : Memory) : ctOperand (blockDone s d) = ctOperand s := rfl

theorem blockDone_phase_next {s : State} (h : s.blk + 1 < s.ctlen / 16) (d : Memory) :
    (blockDone s d).phase = .loadblk := if_pos h

theorem blockDone_blk_next {s : State} (h : s.blk + 1 < s.ctlen / 16) (d : Memory) :
    (blockDone s d).blk = s.blk + 1 := if_pos h

theorem blockDone_phase_last {s : State} (h : ¬ s.blk + 1 < s.ctlen / 16) (d : Memory) :
    (blockDone s d).phase = .padread := if_neg h

section
variable {iv : Block} {s : State}

/-- Seventeen steps decrypt one more block (R105). -/
theorem ChainedTo.runSteps_block (hc : ChainedTo iv s) (h : Inv s) (hp : s.phase = .loadblk) (hi : s.inputs = [])
    (hf : s.engineFault = false) : ∃ d, runSteps 17 s = some (blockDone s d) ∧
      ∀ a, a < 16 * (s.blk + 1) → cellByte .dec d a = (cbcDecrypt s.w iv (ctOperand s))[a]! := by
  have hinv := h.phase
  simp only [PhaseInv, hp] at hinv
  obtain ⟨ha, -, -, hb⟩ := hinv
  have hfit : 16 * s.blk + 16 ≤ s.ctlen := ha.blockOffset_fits hb
  obtain ⟨t, hrun, ht, hnew, hold⟩ := blockTakesSeventeenSteps s (blockOf (ctOperand s) s.blk) hp hi hf (h.mem_wf .dec)
    (hfit.trans ha.ctlen_fits) fun j hj => blockOf_ctOperand hfit hj
  refine ⟨t.dec, hrun.trans (congrArg some ht), fun a ha' => ?_⟩
  obtain hlt | hge := Nat.lt_or_ge a (16 * s.blk)
  · exact (hold a (.inl hlt)).trans (hc.byte a hlt)
  · obtain ⟨j, rfl⟩ := Nat.exists_eq_add_of_le hge
    have hj : j < 16 := by omega
    have hdiv : (16 * s.blk + j) / 16 = s.blk := by omega
    have hmod : (16 * s.blk + j) % 16 = j := by omega
    rw [cbcDecrypt_byte _ _ (by rw [ctOperand_length, hdiv]; exact hb), hdiv, hmod, ← hc.prev]
    exact hnew j hj

/-- Before the last block the chaining goes on. -/
theorem ChainedTo.next {d : Memory} (hn : s.blk + 1 < s.ctlen / 16)
    (hd : ∀ a, a < 16 * (s.blk + 1) → cellByte .dec d a = (cbcDecrypt s.w iv (ctOperand s))[a]!) :
    ChainedTo iv (blockDone s d) where
  prev := by
    rw [blockDone_blk_next hn, ctOperand_blockDone, chainBlock]
    rfl
  byte a ha := hd a (by rwa [blockDone_blk_next hn] at ha)

/-- From `LOADBLK` the blocks from `BLK` on are decrypted, and then the padding is removed. -/
theorem ends_of_loadblk {n : Nat} (hc : ChainedTo iv s) (h : Inv s) (hp : s.phase = .loadblk) (hi : s.inputs = [])
    (hf : s.engineFault = false) (hn : s.blk + (n + 1) = s.ctlen / 16) :
    Ends s (unpad (cbcDecrypt s.w iv (ctOperand s))) := by
  induction n generalizing s with
  | zero =>
    have hinv := h.phase
    simp only [PhaseInv, hp] at hinv
    obtain ⟨ha, -, he, -⟩ := hinv
    have halign := ha.ctlen_aligned
    have hlast : ¬ s.blk + 1 < s.ctlen / 16 := by omega
    have hend : s.ctlen ≤ 16 * (s.blk + 1) := by omega
    have hlen : (cbcDecrypt s.w iv (ctOperand s)).length = s.ctlen := by
      rw [cbcDecrypt_length _ _ (by rwa [ctOperand_length]), ctOperand_length]
    obtain ⟨d, hrun, hd⟩ := hc.runSteps_block h hp hi hf
    exact .of_runSteps hrun <| ends_of_padread
      ⟨hi, ha.frame rfl rfl rfl rfl, he, hlen, fun a ha' => hd a (Nat.lt_of_lt_of_le ha' hend)⟩
      (blockDone_phase_last hlast d)
  | succ n ih =>
    have hnext : s.blk + 1 < s.ctlen / 16 := by omega
    obtain ⟨d, hrun, hd⟩ := hc.runSteps_block h hp hi hf
    exact .of_runSteps hrun <| ih (.next hnext hd) (h.runSteps hrun) (blockDone_phase_next hnext d) hi hf
      (by rw [blockDone_blk_next hnext]; exact (Nat.succ_add_eq_add_succ _ _).trans hn)

end

/-! ### The whole request -/

theorem keyOperand_toList (s : State) : (keyOperand s).toList = (List.range 32).map (s.byteAt .keybuf) :=
  List.ext_getElem (by simp) fun j _ _ => by simp [keyOperand]

theorem ivOperand_toList (s : State) : (ivOperand s).toList = (List.range 16).map (s.byteAt .ivbuf) :=
  List.ext_getElem (by simp) fun j _ _ => by simp [ivOperand]

/-- The state after `KEXP` (R86, R90). -/
def keyExpanded (s : State) : State :=
  { s with w := keyExpansion (keyOperand s), ki := 60#6, phase := .loadblk, blk := 0 }

@[simp] theorem keyExpanded_blk (s : State) : (keyExpanded s).blk = 0 := by simp only [keyExpanded]
@[simp] theorem keyExpanded_prev (s : State) : (keyExpanded s).prev = s.prev := by simp only [keyExpanded]
@[simp] theorem keyExpanded_w (s : State) : (keyExpanded s).w = keyExpansion (keyOperand s) := by simp only [keyExpanded]
@[simp] theorem keyExpanded_inputs (s : State) : (keyExpanded s).inputs = s.inputs := by simp only [keyExpanded]
@[simp] theorem keyExpanded_engineFault (s : State) : (keyExpanded s).engineFault = s.engineFault := by
  simp only [keyExpanded]
@[simp] theorem keyExpanded_ctlen (s : State) : (keyExpanded s).ctlen = s.ctlen := by simp only [keyExpanded]
@[simp] theorem ctOperand_keyExpanded (s : State) : ctOperand (keyExpanded s) = ctOperand s := by
  simp only [ctOperand, keyExpanded, State.byteAt, State.buf]

/-- From `KEXP` with the IV in `PREV` and the input low: the key is expanded, and the blocks follow (R86, R105). -/
theorem ends_of_kexp {s : State} (h : Inv s) (hp : s.phase = .kexp) (hk : s.ki = 0#6) (hi : s.inputs = [])
    (hf : s.engineFault = false) : Ends s (unpad (cbcDecrypt (keyExpansion (keyOperand s)) s.prev (ctOperand s))) := by
  have hinv := h.phase
  simp only [PhaseInv, hp] at hinv
  obtain ⟨ha, -⟩ := hinv
  have hpos := ha.ctlen_pos
  obtain ⟨n, hn⟩ : ∃ n, s.ctlen / 16 = n + 1 := Nat.exists_eq_add_of_le' (by omega)
  have hrun : runSteps 53 s = some (keyExpanded s) := by
    obtain ⟨t, hrun, ht⟩ := kexpPhaseComputesKeyExpansion s hp hk hi hf
    exact hrun.trans (congrArg some ht)
  have hchained : ChainedTo s.prev (keyExpanded s) :=
    ⟨by rw [keyExpanded_blk, chainBlock, keyExpanded_prev], by simp⟩
  have hblocks : (keyExpanded s).blk + (n + 1) = (keyExpanded s).ctlen / 16 := by
    rw [keyExpanded_blk, keyExpanded_ctlen, Nat.zero_add, hn]
  have hends := ends_of_loadblk hchained (h.runSteps hrun) rfl ((keyExpanded_inputs s).trans hi)
    ((keyExpanded_engineFault s).trans hf) hblocks
  rw [keyExpanded_w, ctOperand_keyExpanded] at hends
  exact .of_runSteps hrun hends

/-- An accepted request ends with the result of `Decrypt` on its operands and on the level of the input (R124). -/
theorem ends_of_accepted {s : State} (h : Inv s) (hp : s.phase = .validate) (hi : s.inputs = []) (ha : Accepted s) :
    Ends s (decrypt s.params.ctMax (keyOperand s).toList (ivOperand s).toList (ctOperand s) s.engineFault) := by
  have hinv := h.phase
  simp only [PhaseInv, hp] at hinv
  obtain ⟨hq, -⟩ := hinv
  have hpos := ha.ctlen_pos
  have hct : (ctOperand s).length ≠ 0 ∧ (ctOperand s).length % 16 = 0 := by
    rw [ctOperand_length]
    exact ⟨by omega, ha.ctlen_aligned⟩
  have haccept : SeqTurn s { s with prev := ivOperand s, phase := .kexp } :=
    .accept hp ha.klen ha.ivlen (ctLengthBad_eq_false.2 ⟨by omega, ha.ctlen_aligned⟩) ha.ctlen_fits
  cases hf : s.engineFault with
  | true =>
    rw [decrypt_of_lengths Vector.length_toList Vector.length_toList hct, if_pos (.inr rfl)]
    exact .of_turn hi haccept (ends_of_raises (.engineFault (.inl rfl) hf) hi)
  | false =>
    rw [decrypt_of_accepted _ _ hct.1 hct.2 (by rw [ctOperand_length]; exact ha.ctlen_fits)]
    exact .of_turn hi haccept (ends_of_kexp (h.turn haccept) rfl hq.ki hi hf)

/-- `VALIDATE` accepts, or raises the kind that `Decrypt` returns for operands of these lengths (R124, R128). -/
theorem accepted_or_raises {s : State} (hp : s.phase = .validate) : Accepted s ∨ ∃ k, Raises s k ∧
    ∀ key iv ct fault, key.length = s.klen → iv.length = s.ivlen → ct.length = s.ctlen →
      decrypt s.params.ctMax key iv ct fault = .err k := by
  by_cases hk : s.klen = 32
  case neg => exact .inr ⟨_, .keyLength hp hk, fun _ _ _ _ hkey _ _ => decrypt_of_keyLength (hkey ▸ hk)⟩
  by_cases hi : s.ivlen = 16
  case neg =>
    exact .inr ⟨_, .ivLength hp hk hi, fun _ _ _ _ hkey hiv _ => decrypt_of_ivLength (hkey.trans hk) (hiv ▸ hi)⟩
  cases hc : ctLengthBad s.ctlen
  case true =>
    exact .inr ⟨_, .ctLength hp hk hi hc, fun _ _ _ _ hkey hiv hct =>
      decrypt_of_ctLength (hkey.trans hk) (hiv.trans hi) (hct ▸ ctLengthBad_eq_true.1 hc)⟩
  by_cases hm : s.params.ctMax < s.ctlen
  · refine .inr ⟨_, .capacity hp hk hi hc hm, fun _ _ _ _ hkey hiv hct => ?_⟩
    rw [decrypt_of_lengths (hkey.trans hk) (hiv.trans hi) (hct ▸ ctLengthBad_eq_false.1 hc), if_pos (.inl (hct ▸ hm))]
  · exact .inl (accepted_of_validate hk hi hc (Nat.not_lt.1 hm))

/-- A request for `Decrypt(key, iv, ct)` ends with its result; the bytes matter where the lengths are accepted (R141). -/
theorem ends_of_request {s : State} {key iv ct : List Byte} (h : Inv s) (hp : s.phase = .validate) (hi : s.inputs = [])
    (hkey : key.length = s.klen) (hiv : iv.length = s.ivlen) (hct : ct.length = s.ctlen)
    (hops : Accepted s → (keyOperand s).toList = key ∧ (ivOperand s).toList = iv ∧ ctOperand s = ct) :
    Ends s (decrypt s.params.ctMax key iv ct s.engineFault) := by
  obtain ha | ⟨k, hr, hdecrypt⟩ := accepted_or_raises hp
  · obtain ⟨rfl, rfl, rfl⟩ := hops ha
    exact ends_of_accepted h hp hi ha
  · rw [hdecrypt key iv ct s.engineFault hkey hiv hct]
    exact ends_of_raises hr hi

/-! ### A rejected request -/

/-- A buffer in which nothing is listed reads 0x00, where that is its default. -/
theorem cellByte_nil {b : Buf} (hb : b.unlisted = some 0x00#8) (a : Nat) : cellByte b [] a = 0x00#8 := by
  simp [cellByte, memLookup, hb]

/-- The wipe leaves nothing listed in `KEYBUF` and `IVBUF` (R135). -/
theorem Inv.wiped_request {s : State} (h : Inv s) : (wiped s).keybuf = [] ∧ (wiped s).ivbuf = [] := by
  rw [wiped_keybuf, wiped_ivbuf]
  exact ⟨memStoreBytes_zeros rfl (h.mem_wf .keybuf) (h.mem_within .keybuf),
    memStoreBytes_zeros rfl (h.mem_wf .ivbuf) (h.mem_within .ivbuf)⟩

/-- Settles O28: a length that fails is not accepted, so `VALIDATE` raises, and `FAIL` and `WIPE` follow. -/
theorem rejectedRequestDoesNoCipherWork : Obligations.RejectedRequestDoesNoCipherWork := by
  intro s h hp hi hbad
  obtain ha | ⟨k, hr, -⟩ := accepted_or_raises hp
  · obtain ⟨hk, hv, hpos, halign, hfits⟩ := ha
    omega
  · have hfail : Inv { raise k s with ptlen := 0, phase := .wipe } := (h.turn (.raise hr)).turn (.fail rfl)
    obtain ⟨hkey, hiv⟩ := hfail.wiped_request
    have hkeybuf : (failed k s).keybuf = [] := by simpa only [failed] using hkey
    have hivbuf : (failed k s).ivbuf = [] := by simpa only [failed] using hiv
    refine ⟨raise k s, failed k s, runSteps_next (step_of_turn hi (.raise hr)) 0, rfl, nofun, runSteps_of_raises hr hi, rfl,
      failed_status k s, fun a => ?_, fun a => ?_⟩
    · rw [State.byteAt, State.buf, hkeybuf, cellByte_nil rfl]
    · rw [State.byteAt, State.buf, hivbuf, cellByte_nil rfl]

end Sys2Proof.Machine

/-! PROOFS. A request while the environment drives `ENGINE_FAULT` in any way (spec/45_decrypt_operation.md R138;
spec/60_exceptions.md R150).

`calm s` is `s` with the input low and nothing queued. Every turn either is a turn of the calm states as well, or samples the
input at 1 and raises. So a run along a tape of levels follows the run of the calm state until it raises, if it does. -/

namespace Sys2Proof.Machine

/-! ### The state without its environment -/

/-- The state with the input low and nothing queued. -/
def calm (s : State) : State := { s with engineFault := false, inputs := [] }

theorem kexpCopy_calm (s : State) : kexpCopy (calm s) = calm (kexpCopy s) := by
  have hkey : keyOperand (calm s) = keyOperand s := rfl
  unfold kexpCopy
  rw [hkey]
  simp only [calm]

theorem kexpWord_calm (s : State) : kexpWord (calm s) = calm (kexpWord s) := by
  simp only [kexpWord, calm]

theorem blockStored_calm (s : State) : blockStored (calm s) = calm (blockStored s) := by
  simp only [blockStored, calm, blockOffset]

theorem wiped_calm (s : State) : wiped (calm s) = calm (wiped s) := by
  have hkept : keptByWipe (calm s) = keptByWipe s := rfl
  unfold wiped
  rw [hkept]
  simp only [calm]

theorem raise_calm (k : ErrorKind) (s : State) : raise k (calm s) = calm (raise k s) := by
  simp only [raise, calm]

theorem response_calm (s : State) : response (calm s) = response s := rfl

/-- The fault-free result of an accepted request. -/
theorem ends_of_calm {s : State} (h : Inv s) (hp : s.phase = .validate) (ha : Accepted s) :
    Ends (calm s) (decrypt s.params.ctMax (keyOperand s).toList (ivOperand s).toList (ctOperand s) false) := by
  have hkey : keyOperand (calm s) = keyOperand s := rfl
  have hiv : ivOperand (calm s) = ivOperand s := rfl
  have hct : ctOperand (calm s) = ctOperand s := rfl
  rw [← hkey, ← hiv, ← hct]
  exact ends_of_accepted (h.withEnvironment false [] s.readData) hp rfl (ha.frame rfl rfl rfl rfl)

/-- A check raises on the calm state too, unless it is the sampled input. -/
theorem Raises.calm {s : State} {k : ErrorKind} (hr : Raises s k) :
    Raises (calm s) k ∨ (s.engineFault = true ∧ k = .cipherEngineFailure) := by
  cases hr with
  | keyLength hp hk => exact .inl (.keyLength hp hk)
  | ivLength hp hk hi => exact .inl (.ivLength hp hk hi)
  | ctLength hp hk hi hc => exact .inl (.ctLength hp hk hi hc)
  | capacity hp hk hi hc hm => exact .inl (.capacity hp hk hi hc hm)
  | engineFault hp hf => exact .inr ⟨hf, rfl⟩
  | padRange hp hr => exact .inl (.padRange hp hr)
  | padLength hp hl => exact .inl (.padLength hp hl)
  | padBytes hp hb hu => exact .inl (.padBytes (s := Machine.calm s) hp hb hu)

/-- A turn is a turn of the calm state too, unless it samples the input at 1 (R138). -/
theorem SeqTurn.calm {s t : State} (ht : SeqTurn s t) :
    SeqTurn (calm s) (calm t) ∨ (s.engineFault = true ∧ t = Machine.raise .cipherEngineFailure s) := by
  cases ht with
  | raise hr =>
    obtain hr | ⟨hf, rfl⟩ := hr.calm
    · have ht := SeqTurn.raise hr
      rw [raise_calm] at ht
      exact .inl ht
    · exact .inr ⟨hf, rfl⟩
  | idle hp => exact .inl (.idle hp)
  | accept hp hk hi hc hm => exact .inl (.accept (s := Machine.calm s) hp hk hi hc hm)
  | kexpCopy hp hf hk =>
    have ht := SeqTurn.kexpCopy (s := Machine.calm s) hp rfl hk
    rw [kexpCopy_calm] at ht
    exact .inl ht
  | kexpWord hp hf hk hk' =>
    have ht := SeqTurn.kexpWord (s := Machine.calm s) hp rfl hk hk'
    rw [kexpWord_calm] at ht
    exact .inl ht
  | kexpLast hp hf hk =>
    have ht := SeqTurn.kexpLast (s := Machine.calm s) hp rfl hk
    rw [kexpWord_calm] at ht
    exact .inl ht
  | loadblk hp hf hb => exact .inl (.loadblk (s := Machine.calm s) hp rfl hb)
  | invFirst hp hf hr => exact .inl (.invFirst (s := Machine.calm s) hp rfl hr)
  | invRound hp hf hr hr' => exact .inl (.invRound (s := Machine.calm s) hp rfl hr hr')
  | invFinal hp hf hr => exact .inl (.invFinal (s := Machine.calm s) hp rfl hr)
  | cbcxorNext hp hf hb hn =>
    have ht := SeqTurn.cbcxorNext (s := Machine.calm s) hp rfl hb hn
    rw [blockStored_calm] at ht
    exact .inl ht
  | cbcxorLast hp hf hb hn =>
    have ht := SeqTurn.cbcxorLast (s := Machine.calm s) hp rfl hb hn
    rw [blockStored_calm] at ht
    exact .inl ht
  | padread hp hb => exact .inl (.padread (s := Machine.calm s) hp hb)
  | padrange hp hr => exact .inl (.padrange (s := Machine.calm s) hp hr)
  | padlen hp hl => exact .inl (.padlen (s := Machine.calm s) hp hl)
  | padfull hp hb hu => exact .inl (.padfull (s := Machine.calm s) hp hb hu)
  | trunc hp hl => exact .inl (.trunc (s := Machine.calm s) hp hl)
  | fail hp => exact .inl (.fail (s := Machine.calm s) hp)
  | wipe hp =>
    have ht := SeqTurn.wipe (s := Machine.calm s) hp
    rw [wiped_calm] at ht
    exact .inl ht
  | done hp => exact .inl (.done hp)

/-! ### The end of a request -/

/-- A turn that ends in `DONE` is the wipe or the rest there (R64). -/
theorem SeqTurn.eq_of_done {s t : State} (ht : SeqTurn s t) (hd : t.phase = .done) :
    (s.phase = .wipe ∧ t = { wiped s with phase := .done }) ∨ (s.phase = .done ∧ t = s) := by
  cases ht with
  | wipe hp => exact .inl ⟨hp, rfl⟩
  | done hp => exact .inr ⟨hp, rfl⟩
  | idle hp => exact .inr ⟨hd, rfl⟩
  | kexpCopy hp => simp [hp] at hd
  | kexpWord hp => simp [hp] at hd
  | invFirst hp => simp [hp] at hd
  | invRound hp => simp [hp] at hd
  | raise => simp at hd
  | _ => cases hd

/-- In `DONE` nothing is left of the key and of the IV (R135). -/
def RequestWiped (s : State) : Prop := s.phase = .done → s.keybuf = [] ∧ s.ivbuf = []

theorem SeqTurn.requestWiped {s t : State} (ht : SeqTurn s t) (h : Inv s) (hw : RequestWiped s) : RequestWiped t := by
  intro hd
  obtain ⟨-, rfl⟩ | ⟨hp, rfl⟩ := ht.eq_of_done hd
  · simpa only using h.wiped_request
  · exact hw hp

theorem RequestWiped.byteAt {s : State} (hw : RequestWiped s) (hd : s.phase = .done) (a : Nat) :
    s.byteAt .keybuf a = 0x00#8 ∧ s.byteAt .ivbuf a = 0x00#8 := by
  obtain ⟨hkey, hiv⟩ := hw hd
  rw [State.byteAt, State.byteAt, State.buf, State.buf, hkey, hiv]
  exact ⟨cellByte_nil rfl a, cellByte_nil rfl a⟩

theorem Inv.quiet_of_done {s : State} (h : Inv s) (hd : s.phase = .done) : Quiet s := by
  have hinv := h.phase
  simp only [PhaseInv, hd] at hinv
  exact hinv.1

/-- The gate of `PT` is closed after an error (R51). -/
theorem ptByte_of_err {s : State} (he : s.status ≠ .ok) (j : Nat) : ptByte s j = 0x00#8 := by
  have hclosed : ¬ ptOpen s j = true := fun ho => he (ptOpen_eq_true.1 ho).2.1
  rw [ptByte, if_neg hclosed]

/-- An error of the kind is pending or, in `DONE`, is the response. -/
def FailsWith (k : ErrorKind) (s : State) : Prop :=
  (s.phase = .fail ∧ s.errk = .err k) ∨ (s.phase = .wipe ∧ s.errk = .err k) ∨ (s.phase = .done ∧ s.status = .err k)

theorem SeqTurn.unique {s t u : State} (ht : SeqTurn s t) (hu : SeqTurn s u) : t = u :=
  Host.Outcome.next.inj (ht.sequencerStep_eq.symm.trans hu.sequencerStep_eq)

theorem SeqTurn.failsWith {s t : State} {k : ErrorKind} (ht : SeqTurn s t) (h : FailsWith k s) : FailsWith k t := by
  obtain ⟨hp, he⟩ | ⟨hp, he⟩ | ⟨hp, he⟩ := h
  · rw [ht.unique (.fail hp)]
    exact .inr (.inl ⟨rfl, he⟩)
  · rw [ht.unique (.wipe hp)]
    exact .inr (.inr ⟨rfl, (wiped_status s).trans he⟩)
  · rw [ht.unique (.done hp)]
    exact .inr (.inr ⟨hp, he⟩)

/-! ### Along a tape -/

theorem SeqTurn.engineFault_eq {s t : State} (ht : SeqTurn s t) : t.engineFault = s.engineFault := by
  cases ht <;> simp [blockStored]

/-- Along a tape a step is the environment's action, or the sequencer's turn with an action taken off the queue. -/
theorem step_of_tape {s t : State} (h : Inv s) (htape : EngineTape s.inputs) (hstep : step s = .next t) :
    (∃ level rest, s.inputs = .engineFault level :: rest ∧ t = { s with inputs := rest, engineFault := level }) ∨
      ∃ rest, rest ⊆ s.inputs ∧ SeqTurn { s with inputs := rest } t := by
  cases hi : s.inputs with
  | nil => exact .inr ⟨[], List.Subset.refl [], hi ▸ h.turn_of_step hi hstep⟩
  | cons e rest =>
    obtain rfl | ⟨level, rfl⟩ := htape e (by rw [hi]; exact List.mem_cons_self)
    · rw [step_cons hi] at hstep
      exact .inr ⟨rest, List.subset_cons_self _ _,
        (h.withEnvironment s.engineFault rest s.readData).turn_of_sequencerStep hstep⟩
    · rw [step_engineFault hi] at hstep
      exact .inl ⟨level, rest, rfl, (Host.Outcome.next.inj hstep).symm⟩

/-- What holds along a tape from `s₀`, where `high` says that the input is 1 at some time: the run follows the run of the calm
state, or it has raised `CipherEngineFailure` because the input was 1. -/
structure Follows (s₀ : State) (high : Prop) (s : State) : Prop where
  inv : Inv s
  tape : EngineTape s.inputs
  level : s.engineFault = true → high
  queued : .engineFault true ∈ s.inputs → high
  outcome : (∃ n, runSteps n (calm s₀) = some (calm s)) ∨ (high ∧ FailsWith .cipherEngineFailure s)
  wiped : RequestWiped s

section
variable {s₀ s t : State} {high : Prop}

theorem Follows.environment (h : Follows s₀ high s) {rest : List Event} {level : Bool} (hrest : rest ⊆ s.inputs)
    (hlevel : level = true → high) : Follows s₀ high { s with inputs := rest, engineFault := level } where
  inv := h.inv.withEnvironment level rest s.readData
  tape e he := h.tape e (hrest he)
  level := hlevel
  queued he := h.queued (hrest he)
  outcome := h.outcome
  wiped := h.wiped

theorem Follows.turn (h : Follows s₀ high s) (ht : SeqTurn s t) : Follows s₀ high t where
  inv := h.inv.turn ht
  tape := ht.inputs_eq ▸ h.tape
  level hf := h.level (ht.engineFault_eq ▸ hf)
  queued he := h.queued (ht.inputs_eq ▸ he)
  outcome := by
    obtain ⟨n, hn⟩ | ⟨hhigh, hfails⟩ := h.outcome
    · obtain hcalm | ⟨hf, rfl⟩ := ht.calm
      · exact .inl ⟨n + 1, runSteps_trans hn (runSteps_next (step_of_turn rfl hcalm) 0)⟩
      · exact .inr ⟨h.level hf, .inl ⟨rfl, rfl⟩⟩
    · exact .inr ⟨hhigh, ht.failsWith hfails⟩
  wiped := ht.requestWiped h.inv h.wiped

theorem Follows.step (h : Follows s₀ high s) (hstep : step s = .next t) : Follows s₀ high t := by
  obtain ⟨level, rest, hi, rfl⟩ | ⟨rest, hrest, ht⟩ := step_of_tape h.inv h.tape hstep
  · refine h.environment (hi ▸ List.subset_cons_self _ _) ?_
    rintro rfl
    exact h.queued (hi ▸ List.mem_cons_self)
  · exact (h.environment hrest h.level).turn ht

end

/-- Settles O60: in `DONE` the calm run has come to the result of `Decrypt` with the input low, unless the run has left it by
a raise. -/
theorem anyEngineFaultSequenceIsSafe : Obligations.AnyEngineFaultSequenceIsSafe := by
  intro s t n r h hp ha htape hr hrun hd
  have hstart : Follows s (s.engineFault = true ∨ .engineFault true ∈ s.inputs) s :=
    ⟨h, htape, .inl, .inr, .inl ⟨0, rfl⟩, fun hd' => by simp [hp] at hd'⟩
  have hend := runSteps_induct (fun _ _ => Follows.step) hstart hrun
  have hcalm : Inv (calm s) := h.withEnvironment false [] s.readData
  refine ⟨?_, hend.inv.quiet_of_done hd, fun a => (hend.wiped.byteAt hd a).1, fun a => (hend.wiped.byteAt hd a).2,
    ptByte_of_err⟩
  obtain ⟨k, hk⟩ | ⟨hhigh, hfails⟩ := hend.outcome
  · left
    rw [hr, ← response_calm t]
    exact (ends_of_calm h hp ha).response_eq hcalm rfl hk hd
  · obtain ⟨hp', -⟩ | ⟨hp', -⟩ | ⟨-, hstatus⟩ := hfails
    · simp [hd] at hp'
    · simp [hd] at hp'
    · exact .inr ⟨hstatus, hhigh⟩

end Sys2Proof.Machine

/-! PROOFS. The request as the host makes it: three lengths, the bytes, `START` (spec/30_encoding.md R71;
spec/70_reset_and_hazards.md R165), and the response it gets (spec/45_decrypt_operation.md R141).

At rest each queued access is taken, so the queue leaves the state `loaded`; `START` begins the request in it, and
`ends_of_request` says what it comes to. -/

namespace Sys2Proof.Machine

/-! ### Loading a request -/

/-- The queued byte writes of a window, at rest, store the bytes in its buffer. -/
theorem runSteps_storeEvents {w : Window} {b : Buf}
    (hw : ∀ off v s, windowStore w off v s = s.setBuf b (memStore b (s.buf b) off v)) {vs : List Byte} {off : Nat}
    {s : State} {rest : List Event} (hb : isBusy s = false) (hfit : off + vs.length ≤ windowSize w s.params)
    (hi : s.inputs = storeEvents w off vs ++ rest) :
    runSteps vs.length s = some { s.setBuf b (memStoreBytes b (s.buf b) off vs) with inputs := rest } := by
  induction vs generalizing off s with
  | nil =>
    rw [List.length_nil, runSteps, memStoreBytes]
    have hrest : s.inputs = rest := hi
    subst hrest
    cases b <;> rfl
  | cons v vs ih =>
    rw [List.length_cons] at hfit ⊢
    rw [storeEvents, List.cons_append] at hi
    rw [runSteps_next (step_writeByte_of_rest hb (by omega) hi), hw, ih]
    · cases b <;> rfl
    · cases b <;> exact hb
    · cases b <;> exact (by omega : off + 1 + vs.length ≤ windowSize w s.params)
    · cases b <;> rfl

/-- The state after the lengths and the bytes of a request have been written, with `START` left in the queue (R71). -/
def loaded (s : State) (key iv ct : List Byte) : State :=
  { s with
    klen := key.length
    ivlen := iv.length
    ctlen := ct.length
    keybuf := memStoreBytes .keybuf s.keybuf 0 (key.take 32)
    ivbuf := memStoreBytes .ivbuf s.ivbuf 0 (iv.take 16)
    ctbuf := memStoreBytes .ctbuf s.ctbuf 0 (ct.take s.params.ctMax)
    inputs := [.writeReg 0 0x01] }

theorem storeEvents_length (w : Window) (off : Nat) (vs : List Byte) : (storeEvents w off vs).length = vs.length := by
  induction vs generalizing off with
  | nil => rfl
  | cons v vs ih => rw [storeEvents, List.length_cons, ih, List.length_cons]

/-- How many accesses come before `START`. -/
def loadLength (p : Config.Params) (key iv ct : List Byte) : Nat :=
  3 + ((key.take 32).length + ((iv.take 16).length + (ct.take p.ctMax).length))

theorem requestEvents_length (p : Config.Params) (key iv ct : List Byte) :
    (requestEvents p key iv ct).length = loadLength p key iv ct + 1 := by
  simp only [requestEvents, loadLength, List.length_append, storeEvents_length, List.length_cons, List.length_nil]
  omega

/-- The three length registers take their values at rest (R24, R50). -/
theorem runSteps_lengths {s : State} {k i c : Nat} {rest : List Event} (hb : isBusy s = false) (hk : k < 2 ^ s.params.lenW)
    (hi : i < 2 ^ s.params.lenW) (hc : c < 2 ^ s.params.lenW)
    (hin : s.inputs = .writeReg 2 k :: .writeReg 3 i :: .writeReg 4 c :: rest) :
    runSteps 3 s = some { s with klen := k, ivlen := i, ctlen := c, inputs := rest } := by
  obtain ⟨hfirst, -⟩ := restingPortTakesWrites s (.writeReg 3 i :: .writeReg 4 c :: rest) hb
  obtain ⟨hsecond, -⟩ := restingPortTakesWrites
    { s with inputs := .writeReg 3 i :: .writeReg 4 c :: rest, klen := k } (.writeReg 4 c :: rest) hb
  obtain ⟨hthird, -⟩ := restingPortTakesWrites
    { s with inputs := .writeReg 4 c :: rest, klen := k, ivlen := i } rest hb
  rw [runSteps_next ((hfirst k hk).1 hin), runSteps_next ((hsecond i hi).2.1 rfl), runSteps_next ((hthird c hc).2.2 rfl),
    runSteps]

/-- At rest the queue of a request up to `START` leaves `loaded`. -/
theorem runSteps_load {s : State} {key iv ct : List Byte} (hb : isBusy s = false) (hk : key.length < 2 ^ s.params.lenW)
    (hi : iv.length < 2 ^ s.params.lenW) (hc : ct.length < 2 ^ s.params.lenW)
    (hin : s.inputs = requestEvents s.params key iv ct) :
    runSteps (loadLength s.params key iv ct) s = some (loaded s key iv ct) := by
  simp only [requestEvents, List.append_assoc, List.cons_append, List.nil_append] at hin
  exact runSteps_trans (runSteps_lengths hb hk hi hc hin) <|
    runSteps_trans (runSteps_storeEvents (w := .keybuf) (b := .keybuf) (fun _ _ _ => rfl) hb
      (by simp [windowSize, Config.keyBytes]) rfl) <|
    runSteps_trans (runSteps_storeEvents (w := .ivbuf) (b := .ivbuf) (fun _ _ _ => rfl) hb
      (by simp [windowSize, Config.ivBytes]) rfl) <|
    runSteps_storeEvents (w := .ctbuf) (b := .ctbuf) (fun _ _ _ => rfl) hb (by simp [windowSize]) rfl

/-- The request begins in `begun`, with the lengths and the bytes in place (R71, R127). -/
theorem runSteps_request {s : State} {key iv ct : List Byte} (h : Inv s) (hp : s.phase = .idle ∨ s.phase = .done)
    (hk : key.length < 2 ^ s.params.lenW) (hi : iv.length < 2 ^ s.params.lenW) (hc : ct.length < 2 ^ s.params.lenW)
    (hin : s.inputs = requestEvents s.params key iv ct) :
    ∃ d, runSteps (requestEvents s.params key iv ct).length s = some (begun (loaded s key iv ct) d) := by
  have hload := runSteps_load (isBusy_eq_false.2 hp) hk hi hc hin
  obtain ⟨d, hstart⟩ := step_start_of_rest (h.runSteps hload) hp rfl
  exact ⟨d, by rw [requestEvents_length, runSteps_trans hload (runSteps_next hstart 0), runSteps]⟩

/-! ### The operands of the loaded request -/

/-- A sequence stored from offset 0 reads back. -/
theorem range_map_cellByte {b : Buf} {m : Memory} (hm : Memory.wf b m) {vs : List Byte} {n : Nat} (hn : vs.length = n) :
    (List.range n).map (cellByte b (memStoreBytes b m 0 vs)) = vs := by
  refine List.ext_getElem (by simp [hn]) fun j hj hj' => ?_
  rw [List.getElem_map, List.getElem_range, cellByte_memStoreBytes hm, if_pos (by omega), Nat.sub_zero,
    List.getD_eq_getElem _ _ hj']

/-- Where the lengths are accepted, the request holds the operands (R59). -/
theorem operands_begun {s : State} {key iv ct : List Byte} {d : Memory} (h : Inv s)
    (ha : Accepted (begun (loaded s key iv ct) d)) : (keyOperand (begun (loaded s key iv ct) d)).toList = key ∧
      (ivOperand (begun (loaded s key iv ct) d)).toList = iv ∧ ctOperand (begun (loaded s key iv ct) d) = ct := by
  have hk : key.length = 32 := ha.klen
  have hi : iv.length = 16 := ha.ivlen
  have hc : ct.length ≤ s.params.ctMax := ha.ctlen_fits
  have hkeybuf : State.byteAt (begun (loaded s key iv ct) d) .keybuf =
      cellByte .keybuf (memStoreBytes .keybuf s.keybuf 0 (key.take 32)) := rfl
  have hivbuf : State.byteAt (begun (loaded s key iv ct) d) .ivbuf =
      cellByte .ivbuf (memStoreBytes .ivbuf s.ivbuf 0 (iv.take 16)) := rfl
  have hctbuf : State.byteAt (begun (loaded s key iv ct) d) .ctbuf =
      cellByte .ctbuf (memStoreBytes .ctbuf s.ctbuf 0 (ct.take s.params.ctMax)) := rfl
  rw [keyOperand_toList, ivOperand_toList, ctOperand, hkeybuf, hivbuf, hctbuf, List.take_of_length_le hk.le,
    List.take_of_length_le hi.le, List.take_of_length_le hc]
  exact ⟨range_map_cellByte (h.mem_wf .keybuf) hk, range_map_cellByte (h.mem_wf .ivbuf) hi,
    range_map_cellByte (h.mem_wf .ctbuf) rfl⟩

/-! ### The response -/

section
variable {s : State}

/-- What the host reads of a plaintext (R25, R51, R60). -/
theorem reads_of_response_ok {pt : List Byte} (hd : s.phase = .done) (hr : response s = .ok pt) :
    s.status = .ok ∧ ptlenRead s = pt.length ∧ ∀ j, j < pt.length → ptByte s j = pt[j]! := by
  cases hstatus : s.status with
  | err k =>
    rw [response_of_err hstatus] at hr
    cases hr
  | ok =>
    rw [response_of_ok hstatus] at hr
    cases hr
    refine ⟨rfl, ?_, fun j hj => ?_⟩
    · simp [ptlenRead, isDone, hd]
    · rw [getElem!_pos _ j hj, List.getElem_map, List.getElem_range]

/-- What the host reads after an error: its kind and nothing else (R13, R51). -/
theorem reads_of_response_err {k : ErrorKind} (h : Inv s) (hd : s.phase = .done) (hr : response s = .err k) :
    s.status = .err k ∧ ptlenRead s = 0 ∧ ∀ j, ptByte s j = 0x00#8 := by
  have hinv := h.phase
  simp only [PhaseInv, hd] at hinv
  obtain ⟨-, -, -, hlen, -⟩ := hinv
  cases hstatus : s.status with
  | ok =>
    rw [response_of_ok hstatus] at hr
    cases hr
  | err k' =>
    rw [response_of_err hstatus] at hr
    cases hr
    have herr : s.status ≠ .ok := by simp [hstatus]
    exact ⟨rfl, by simp [ptlenRead, hlen herr], ptByte_of_err herr⟩

/-- In `DONE` nothing is left in `DEC` beyond the plaintext (R29, R135). -/
theorem Inv.dec_of_done (h : Inv s) (hd : s.phase = .done) {a : Nat} (ha : s.ptlen ≤ a) : s.byteAt .dec a = 0x00#8 := by
  have hinv := h.phase
  simp only [PhaseInv, hd] at hinv
  obtain ⟨-, -, -, -, hwithin⟩ := hinv
  rw [State.byteAt, State.buf, cellByte, memLookup_of_within hwithin ha]
  rfl

end

/-- Settles O58: the queue loads and starts the request, the run is in `DONE` after the steps that are left, and its response
is the one `ends_of_request` gives. -/
theorem portAgreesWithDecrypt : Obligations.PortAgreesWithDecrypt := by
  intro s key iv ct r h hp hk hi hc hin hr
  obtain ⟨d, hrequest⟩ := runSteps_request h hp hk hi hc hin
  have hbegun := h.runSteps hrequest
  obtain ⟨t, hrun, hd⟩ := runSteps_reaches_done (n := 60 + 17 * (ct.length / 16)) hbegun rfl nofun le_rfl
  have hends := ends_of_request hbegun rfl rfl rfl rfl rfl (operands_begun h)
  have hresponse : response t = r := (hends.response_eq hbegun rfl hrun hd).trans hr.symm
  have hinv := hbegun.runSteps hrun
  have hwiped : RequestWiped t := hbegun.runSteps_turns (fun _ _ hu hw ht => ht.requestWiped hu hw) rfl nofun hrun
  exact ⟨t, runSteps_trans hrequest hrun, hd, hresponse, fun pt hpt => reads_of_response_ok hd (hresponse.trans hpt),
    fun k hk => reads_of_response_err hinv hd (hresponse.trans hk), hinv.quiet_of_done hd,
    fun a => (hwiped.byteAt hd a).1, fun a => (hwiped.byteAt hd a).2, fun a ha => hinv.dec_of_done hd ha⟩

end Sys2Proof.Machine

/-! PROOFS. What an error leaves behind (spec/60_exceptions.md R149, R153).

With an error of kind `k` pending in `FAIL` the state is its own `raise k`, so `FAIL` and `WIPE` lead to `failed k`. The
invariant holds there, and says of `DONE` that the registers are zero and, with an error in `STATUS`, that `PTLEN` is 0 and
nothing is left in `DEC`. That the key and the IV are gone is `RequestWiped`, which every turn keeps. -/

namespace Sys2Proof.Machine

section
variable {s : State} {k : ErrorKind}

/-- A pending error is the mark of a raise: raising it again changes nothing (R134). -/
theorem raise_of_pending (hp : s.phase = .fail) (he : s.errk = .err k) : raise k s = s := by
  rw [raise, ← hp, ← he]

/-- `FAIL` and then `WIPE` (R134, R135). -/
theorem runSteps_of_pending (hp : s.phase = .fail) (he : s.errk = .err k) (hi : s.inputs = []) :
    runSteps 2 s = some (failed k s) := by
  have hfail : step s = .next { s with ptlen := 0, phase := .wipe } := step_of_turn hi (.fail hp)
  have hwipe : step { s with ptlen := 0, phase := .wipe } = .next (failed k s) := by
    rw [failed, raise_of_pending hp he]
    exact step_of_turn hi (.wipe rfl)
  rw [runSteps_next hfail, runSteps_next hwipe, runSteps]

end

/-- Settles O27: two steps lead to `failed k`, and the invariant there leaves of the request nothing but its kind. -/
theorem errorReportsOnlyItsKind : Obligations.ErrorReportsOnlyItsKind := by
  intro s k h hp he hi
  have hrun := runSteps_of_pending hp he hi
  have hinv : Inv (failed k s) := h.runSteps hrun
  have hd : (failed k s).phase = .done := rfl
  have hbusy : RequestWiped s := fun hdone => by simp [hp] at hdone
  have hwiped : RequestWiped (failed k s) := h.runSteps_turns (fun _ _ hu hw ht => ht.requestWiped hu hw) hi hbusy hrun
  obtain ⟨hstatus, hptlen, hpt⟩ := reads_of_response_err hinv hd (response_of_err (failed_status k s))
  have hstat : (statByte (failed k s)).toNat = 2 + 4 * (kindCode k).toNat := by
    rw [statByte_toNat_of_done hd, hstatus, Code.bits]
  exact ⟨failed k s, hrun, hd, hstat, hptlen, hpt, fun a => hinv.dec_of_done hd (Nat.zero_le a),
    fun a => (hwiped.byteAt hd a).1, fun a => (hwiped.byteAt hd a).2, hinv.quiet_of_done hd, rfl, rfl, rfl, rfl, rfl⟩

end Sys2Proof.Machine
